-- ==== Sys2Proof/Word.lean ====
section
/-! DEFINITION. The word types of the hardware (R12, R97): a byte of the stream, of a queue and of an exemplar
register, and the 16-bit numeric fields of a setup packet. -/

namespace Sys2Proof

/-- One byte: what the framer moves in and out, what a queue holds (R97). -/
abbrev Byte := BitVec 8

/-- A 16-bit numeric field of the setup packet (R141). -/
abbrev Half := BitVec 16

end Sys2Proof
end

