-- ==== Sys2Proof/Config.lean ====
section
/-! DEFINITION. What an implementation of the peripheral fixes: the sizes the source states (R9, status *source*), the
collaborators' types (R75), the types of the declarative register map `REGMAP` and of its hooks (R31 to R38), and the record of
the parameters the spec leaves to the implementation. No value of this hardware is undefined
(93_implementation_defined.md); every OPEN parameter is plain data of the instance and a claim quantifies over it. -/

namespace Sys2Proof

/-- `IDXBITS`: width of the register index in the command byte (R9, source). -/
abbrev Config.idxBits : Nat := 5
/-- `SUD_CAP`: capacity of the setup FIFO (R9, R48, source). -/
abbrev Config.sudCap : Nat := 8
/-- `SND_CAP`: capacity of the send FIFO (R9, R48, source). -/
abbrev Config.sndCap : Nat := 64
/-- `SETUP_LEN`: bytes of a setup packet (R9, R141, source). -/
abbrev Config.setupLen : Nat := 8
/-- `NPAIRS`: request/enable pairs of the aggregator (R9, R70, source). -/
abbrev Config.nPairs : Nat := 6

/-- The three data channels (R48). -/
inductive QueueId where
  | sud
  | snd
  | rcv
deriving DecidableEq, Repr

/-- The four access modes of a field (R32). -/
inductive Mode where
  | ro
  | wo
  | rw
  | w1c
deriving DecidableEq, Repr

/-- The fields a bank can declare: the 22 named fields of the exemplar map (R54 to R68), and for a generic bank the
field number `n` of width `w` (R31: a field is named and has a width of its own). -/
inductive FieldId where
  | rcvData | sndData | sudData | sndBc
  | oscOkIrq | oscOkIe | chipRes | ie
  | rcvDavIrq | sndBavIrq | condetIrq | frameIrq | hxfrdnIrq
  | rcvDavIe | sndBavIe | condetIe | frameIe | hxfrdnIe
  | sofKaEnab | perAddr | hxfr | busState
  | user (n w : Nat)
deriving DecidableEq, Repr

/-- The names of the registers (R34 `r.name`): the 14 of the exemplar (R54), and those of a generic bank. -/
inductive RegName where
  | rcvFifo | sndFifo | sudFifo | sndBc | usbIrq | usbIen | usbCtl | cpuCtl
  | hirq | hien | mode | perAddr | hxfr | hrsl
  | user (n : Nat)
deriving DecidableEq, Repr

/-- An endpoint of a downstream device, named by the device and its index (R75). -/
structure Endpoint where
  device : Nat
  index  : Nat
deriving DecidableEq, Repr

/-- A downstream device as the hardware meets it (R75): which device it is, the endpoint indices its lookup `d.endpoint(i)`
answers now, and the indices it answers after each later change of the topology, the next first. The answers are the
same until the topology changes (R353, U24, log entry 10). -/
structure Device where
  ident     : Nat
  endpoints : List Nat
  later     : List (List Nat) := []
deriving DecidableEq, Repr

/-- The action a VirtualClock calls on a tick (R49): the exemplar's frame tick. -/
inductive Callback where
  | frameTick
deriving DecidableEq, Repr

/-- The two kinds of one-shot subscription (R51). -/
inductive SubKind where
  | dataReady
  | setupResp
deriving DecidableEq, Repr

/-- Every report the hardware can make (R372), in the order of its code numbers. -/
inductive Report where
  | unmappedRead (offset : Int)
  | unmappedWrite (offset : Int) (value : Nat)
  | badWidth (offset : Int) (width : Nat)
  | reentrant (offset : Int)
  | fifoOverflow (q : QueueId) (dropped : Nat)
  | fifoUnderflow (q : QueueId)
  | unexpectedState (b : Byte)
  /-- made by no rule: a direction is one bit (R285); a declared hook may append it all the same (log entry 11) -/
  | decodeError (b : Byte)
  | noDevice (a : Nat)
  | noEndpoint (index : Nat)
  | setupBadEp (index : Nat)
  | setupDecode (found : Nat)
  | byteCountMismatch (declared queued : Nat)
deriving DecidableEq, Repr

/-! ### Hooks

A hook is a function of a field with any effect on the state but another bank access (R33). `REGMAP` is data, so a hook
is a program over the calls that R33 and R183 name (log entry 11). -/

/-- A number the state holds, as a hook reads it; a Boolean is 0 or 1, an absent target 0. That a hook reads the line, the
clock and the subscription counter, which no rule of the spec makes it read, is the model's choice (R33; DESIGN CHOICE,
log entry 11). -/
inductive StatePart where
  /-- `REG.FIELD` (R40) -/
  | field (f : FieldId)
  /-- `x[i]`, the raw value of a whole register (R14) -/
  | register (offset : Int)
  /-- FQ.COUNT (R260) -/
  | count (q : QueueId)
  /-- the line's level; R50: read by no rule (DESIGN CHOICE, log entry 11) -/
  | line
  | selected
  /-- 0 Idle, 1 Writing, 2 Reading -/
  | psmState
  | psmTarget
  | running
  | disposed
  | rate
  /-- the numerator of the clock's phase; R49: used by the timed view alone (DESIGN CHOICE, log entry 11) -/
  | elapsedNum
  /-- the denominator of the clock's phase (DESIGN CHOICE, log entry 11) -/
  | elapsedDen
  | nextId
deriving DecidableEq, Repr

/-- An operation on natural numbers; a comparison gives 0 or 1. -/
inductive HookOp where
  | add
  | sub
  | mul
  | div
  | mod
  | and
  | or
  | xor
  | shl
  | shr
  | eq
  | lt
deriving DecidableEq, Repr

/-- A number a hook computes. -/
inductive HookExpr where
  | lit (n : Nat)
  /-- the stored value before the access: `stored` of a provider, `old` of a write hook (R33) -/
  | old
  /-- the stored value after a write's stores (R33) -/
  | new
  /-- the hook's own number `k` -/
  | num (k : Nat)
  /-- the length of the hook's own byte sequence `k` -/
  | len (k : Nat)
  /-- byte `i` of the hook's own sequence `k`, 0 where there is none -/
  | item (k : Nat) (i : HookExpr)
  | part (p : StatePart)
  /-- byte `i` of a queue, the oldest being 0; 0 where there is none -/
  | queued (q : QueueId) (i : HookExpr)
  /-- whether a subscription is pending; R51: hidden from the bus master (DESIGN CHOICE, log entry 11) -/
  | pending (id : HookExpr) (kind : SubKind)
  /-- whether an address has a device (R52) -/
  | attached (a : HookExpr)
  | op (o : HookOp) (x y : HookExpr)
  /-- the `n`-th function of the arguments and of the state that an implementation declares (log entry 11) -/
  | declared (n : Nat)
deriving DecidableEq, Repr

/-- A call a hook makes: on its own numbers and byte sequences, or on a part of the state (R33, R183). The steps of the
agents and the construction are no calls: VC.TICK and VC.ADVANCE are steps of their own (R17, R231, R233), VC.OBTAIN is for
construction only (R226). -/
inductive HookCall where
  | setNum (k : Nat) (x : HookExpr)
  /-- append a byte to the hook's own sequence `k` -/
  | push (k : Nat) (x : HookExpr)
  /-- the hook's own sequence `k` emptied -/
  | drop (k : Nat)
  /-- `REG.FIELD <- v` (R40) -/
  | raw (f : FieldId) (x : HookExpr)
  /-- FQ.ENQ1 (R253) -/
  | enq1 (q : QueueId) (x : HookExpr)
  /-- FQ.ENQN (R254), of the sequence `k` -/
  | enqN (q : QueueId) (k : Nat)
  /-- FQ.DEQ1 (R257), into the number `k` -/
  | deq1 (q : QueueId) (k : Nat)
  /-- FQ.DEQN (R258), into the sequence `k` -/
  | deqN (q : QueueId) (n : HookExpr) (k : Nat)
  /-- FQ.DEQALL (R259), into the sequence `k` -/
  | deqAll (q : QueueId) (k : Nat)
  /-- FQ.CLEAR (R261) -/
  | clear (q : QueueId)
  /-- IA.RECOMPUTE (R211) -/
  | recompute
  /-- LINE.SET (R212); R50 names IA.RECOMPUTE and reset alone as what sets the line (DESIGN CHOICE, log entry 11) -/
  | line (x : HookExpr)
  /-- VC.START (R228) -/
  | vcStart
  /-- VC.STOP (R229) -/
  | vcStop
  /-- VC.DISPOSE (R230): it disposes the clock, not the peripheral (log entry 8) -/
  | vcDispose
  /-- P.XFER (R325) -/
  | transfer (x : HookExpr)
  /-- P.SETUP (R330) -/
  | setup (d : Device)
  /-- P.BULKOUT (R334) -/
  | bulkOut (e : Endpoint)
  /-- P.BULKIN (R336) -/
  | bulkIn (eo : Option Endpoint)
  /-- `emit WriteData(e, ·)` of the sequence `k` (R75) -/
  | writeData (e : Endpoint) (k : Nat)
  /-- a fresh subscription (R51), its identifier into the number `k` -/
  | subscribe (kind : SubKind) (k : Nat)
  /-- a subscription discarded (R51) -/
  | unsubscribe (id : HookExpr) (kind : SubKind)
  /-- a device at the address in the low seven bits of `a`, in the place of one that is there (R52; DESIGN CHOICE, log
  entry 11) -/
  | attach (a : HookExpr) (d : Device)
  /-- the address in the low seven bits of `a` without device, had it one or not (R52; DESIGN CHOICE, log entry 11) -/
  | detach (a : HookExpr)
  /-- a command for the protocol machine (R277) -/
  | command (x : HookExpr)
  /-- PSM.FRAMEEND (R283) -/
  | frameEnd
  /-- PSM.RESET (R284) -/
  | psmReset
  /-- the select level (R46) -/
  | select (x : HookExpr)
  /-- `report` (R14) of any report with any arguments, DECODE_ERROR among them; R285 and R372 name who makes each report
  (DESIGN CHOICE, log entry 11) -/
  | report (r : Report)
  /-- RB.READ of the same bank, its result into the number `k` (R183) -/
  | bankRead (offset : Int) (width k : Nat)
  /-- RB.WRITE to the same bank (R183) -/
  | bankWrite (offset : Int) (width : Nat) (x : HookExpr)
deriving DecidableEq, Repr

/-- A write hook, `writeEffect` or `postWrite` (R33), or the body of a provider. A condition holds when it is not 0. -/
inductive Hook where
  | skip
  | call (c : HookCall)
  | seq (a b : Hook)
  | ite (x : HookExpr) (a b : Hook)
  /-- the body `x` times, `x` being computed once -/
  | rep (x : HookExpr) (a : Hook)
deriving DecidableEq, Repr

/-- A value provider (R33): what a bus-side read calls, and the value it returns after that. -/
structure Provider where
  body  : Hook := .skip
  value : HookExpr
deriving DecidableEq, Repr

/-- A field declaration (R31). Its width is its name's (`FieldId.width`); its current value is State's. -/
structure Field where
  name        : FieldId
  offset      : Nat
  mode        : Mode
  provider    : Option Provider := none
  writeEffect : Option Hook := none
  postWrite   : Option Hook := none
deriving DecidableEq, Repr

/-- A register declaration (R34): its offset in the bank, its fields by ascending bit offset, its reset value. -/
structure Register where
  name   : RegName
  index  : Int
  fields : List Field
  reset  : Nat
deriving DecidableEq, Repr

/-- Whether the protocol machine returns to Idle after one data byte (R9 `FRAMING`, R286). -/
inductive Framing where
  | untilFrameEnd
  | singleByte
deriving DecidableEq, Repr

/-- The parameters of one peripheral instance that are read while it runs (R9, R30): fixed at construction, changed by
no operation. The capacities of the queues stand with the queues and the clock's rate with the clock (R47, R49). -/
structure Params where
  /-- `W`, the width of every register of the bank (R37) -/
  width           : Nat
  /-- `REGMAP`, the bank declaration (R37) -/
  regmap          : List Register
  /-- `FRAMING` -/
  framing         : Framing
  /-- `ATTACH_STATUS`, a 2-bit value (R322) -/
  attachStatus    : BitVec 2
  /-- `BULK_OUT_SETS_DONE` (R334) -/
  bulkOutSetsDone : Bool
deriving DecidableEq, Repr

end Sys2Proof
end

