-- ==== Sys2Proof/Syntax.lean ====
section
/-! DEFINITION. The operations of the hardware (R131), one constructor per row of spec/opcode_table.json, with their
operands; and the agent steps, the thirteen operations an agent outside the hardware can take (R17). -/

namespace Sys2Proof

/-- The operations of R131, in the order of the opcode table. -/
inductive Instr where
  /-- CMD.RD (R279): a command byte with direction 0 and target `idx`. -/
  | cmdRd (idx : BitVec 5)
  /-- CMD.WR (R278): a command byte with direction 1 and target `idx`. -/
  | cmdWr (idx : BitVec 5)
  /-- XFER.SETUP (R328): a transfer-control byte with SETUP = 1. -/
  | xferSetup (ep : BitVec 4)
  /-- XFER.HS (R329): SETUP = 0, HS = 1; the other bits are ignored. -/
  | xferHs
  /-- XFER.OUT (R332): a data request, OUTNIN = 1. -/
  | xferOut (ep : BitVec 4)
  /-- XFER.IN (R333): a data request, OUTNIN = 0. -/
  | xferIn (ep : BitVec 4)
  /-- SUD.DECODE (R331). -/
  | sudDecode (p : List Byte)
  /-- FR.SELECT (R301). -/
  | frSelect
  /-- FR.XFER (R302). -/
  | frXfer (b : Byte)
  /-- FR.DESELECT (R303). -/
  | frDeselect
  /-- BUS.READ (R185). -/
  | busRead (offset : Int)
  /-- BUS.WRITE (R186). -/
  | busWrite (offset : Int) (v : Byte)
  /-- VC.TICK (R231). -/
  | vcTick
  /-- VC.ADVANCE (R233): `dt` seconds of virtual time. -/
  | vcAdvance (dt : Rat)
  /-- P.ATTACH (R322). -/
  | pAttach (a : Nat) (d : Device)
  /-- P.DETACH (R323). -/
  | pDetach (a : Nat)
  /-- CB.DATAREADY (R338); `context` is opaque. -/
  | cbDataReady (id context : Nat) (bytes : List Byte)
  /-- CB.SETUPRESP (R344). -/
  | cbSetupResp (id : Nat) (bytes : List Byte)
  /-- P.RESET (R421). -/
  | pReset
  /-- P.DISPOSE (R422). -/
  | pDispose
  /-- PSM.BYTE (R276). -/
  | psmByte (b : Byte)
  /-- PSM.DATA (R280): a byte in state Writing. -/
  | psmData (b : Byte)
  /-- PSM.DUMMY (R281): a byte in state Reading. -/
  | psmDummy (b : Byte)
  /-- PSM.FRAMEEND (R283). -/
  | psmFrameEnd
  /-- PSM.RESET (R284). -/
  | psmReset
  /-- RB.READ (R172). -/
  | rbRead (offset : Int) (width : Nat)
  /-- RB.WRITE (R176). -/
  | rbWrite (offset : Int) (width : Nat) (value : Nat)
  /-- RB.RESET (R184). -/
  | rbReset
  /-- IA.RECOMPUTE (R211). -/
  | iaRecompute
  /-- LINE.SET (R212). -/
  | lineSet (b : Bool)
  /-- VC.OBTAIN (R226): ticks per second of virtual time. -/
  | vcObtain (callback : Callback) (rate : Int)
  /-- VC.START (R228). -/
  | vcStart
  /-- VC.STOP (R229). -/
  | vcStop
  /-- VC.DISPOSE (R230). -/
  | vcDispose
  /-- FQ.ENQ1 (R253). -/
  | fqEnq1 (q : QueueId) (b : Byte)
  /-- FQ.ENQN (R254). -/
  | fqEnqN (q : QueueId) (bytes : List Byte)
  /-- FQ.DEQ1 (R257). -/
  | fqDeq1 (q : QueueId)
  /-- FQ.DEQN (R258). -/
  | fqDeqN (q : QueueId) (n : Nat)
  /-- FQ.DEQALL (R259). -/
  | fqDeqAll (q : QueueId)
  /-- FQ.COUNT (R260). -/
  | fqCount (q : QueueId)
  /-- FQ.CLEAR (R261). -/
  | fqClear (q : QueueId)
  /-- P.FRAMETICK (R324). -/
  | pFrameTick
  /-- P.XFER (R325): the value just stored in HXFR. -/
  | pXfer (v : Byte)
  /-- P.SETUP (R330). -/
  | pSetup (d : Device)
  /-- P.BULKOUT (R334). -/
  | pBulkOut (e : Endpoint)
  /-- P.BULKIN (R336). -/
  | pBulkIn (eo : Option Endpoint)
deriving DecidableEq, Repr

/-- The four agents (R17). -/
inductive Agent where
  | busMaster
  | virtualTime
  | downstream
  | host
deriving DecidableEq, Repr

/-- A step an agent takes (R17): the operations that are not internal. The environment's schedule is a list of these.
`vcTick` belongs to the untimed view and `vcAdvance` to the timed one (R232, R233); a schedule may hold both, and a claim
about the timed view is about schedules without `vcTick` (DESIGN CHOICE, log entry 20). -/
inductive Stimulus where
  | frSelect
  | frXfer (b : Byte)
  | frDeselect
  | busRead (offset : Int)
  | busWrite (offset : Int) (v : Byte)
  | vcTick
  | vcAdvance (dt : Rat)
  | pAttach (a : Nat) (d : Device)
  | pDetach (a : Nat)
  | cbDataReady (id context : Nat) (bytes : List Byte)
  | cbSetupResp (id : Nat) (bytes : List Byte)
  | pReset
  | pDispose
deriving DecidableEq, Repr

end Sys2Proof
end

