-- ==== Sys2Proof/Decode.lean ====
section
/-! DEFINITION. The four bit-level encodings of the hardware (R130): the command byte CMD8 (R133), the
transfer-control byte XFR8 (R139, R140), the setup packet SUD64 (R141), and the opcode table's rows of them (R143). Every
other operation is an EVENT and has no bit pattern (R130). Decoder first, encoder after it. -/

namespace Sys2Proof

/-- The formats of the opcode table (R132, R143). -/
inductive Format where
  | cmd8
  | xfr8
  | sud64
  | event
deriving DecidableEq, Repr

/-- Why bytes do not decode. No command byte and no transfer-control byte is illegal (R138, R140), so only missing bytes
and the absence of an encoding remain. -/
inductive DecodeError where
  /-- no byte is there -/
  | noByte (fmt : Format)
  /-- fewer than eight bytes for a setup packet (R141) -/
  | shortSetup (found : Nat)
  /-- an EVENT has no bit pattern (R130) -/
  | noBitPattern
deriving DecidableEq, Repr

/-- A decoded command byte (R133): a read or a write of the target register. -/
inductive Command where
  | rd (idx : BitVec 5)
  | wr (idx : BitVec 5)
deriving DecidableEq, Repr

/-- A decoded transfer-control byte (R140). -/
inductive Transfer where
  | setup (ep : BitVec 4)
  | hs
  | out (ep : BitVec 4)
  | inn (ep : BitVec 4)
deriving DecidableEq, Repr

/-- A decoded setup packet (R141). -/
structure Packet where
  bmRequestType : Byte
  bRequest      : Byte
  wValue        : Half
  wIndex        : Half
  wLength       : Half
deriving DecidableEq, Repr

/-- `IDX = b >> 3` (R135). -/
def commandIndex (b : Byte) : BitVec 5 := b.extractLsb' 3 5

/-- `DIR = b[1]` (R134): `true` is a write. -/
def commandDir (b : Byte) : Bool := b.getLsbD 1

/-- Command decode (R138): all 256 bytes are commands; bits 0 and 2 take no part (R136). -/
def decodeCommand (b : Byte) : Command :=
  if commandDir b then .wr (commandIndex b) else .rd (commandIndex b)

/-- `EP = v[3:0]` (R139). -/
def transferEp (v : Byte) : BitVec 4 := v.extractLsb' 0 4

/-- Transfer-control decode (R140): SETUP over HS over data; bit 6 takes no part. -/
def decodeTransfer (v : Byte) : Transfer :=
  if v.getLsbD 4 then .setup (transferEp v)
  else if v.getLsbD 7 then .hs
  else if v.getLsbD 5 then .out (transferEp v)
  else .inn (transferEp v)

/-- `lo | (hi << 8)` (R92, R155). -/
def littleEndian (lo hi : Byte) : Half := lo.zeroExtend 16 ||| (hi.zeroExtend 16 <<< 8)

/-- SUD.DECODE (R331): a packet, or `none` when fewer than eight bytes are available; bytes beyond the eighth are
ignored. -/
def decodeSetup : List Byte → Option Packet
  | p0 :: p1 :: p2 :: p3 :: p4 :: p5 :: p6 :: p7 :: _ =>
    some { bmRequestType := p0, bRequest := p1, wValue := littleEndian p2 p3, wIndex := littleEndian p4 p5,
           wLength := littleEndian p6 p7 }
  | _ => none

/-- The operation a decoded command byte selects (R138). -/
def Command.toInstr : Command → Instr
  | .rd t => .cmdRd t
  | .wr t => .cmdWr t

/-- The operation a decoded transfer-control byte selects (R140). -/
def Transfer.toInstr : Transfer → Instr
  | .setup ep => .xferSetup ep
  | .hs => .xferHs
  | .out ep => .xferOut ep
  | .inn ep => .xferIn ep

/-- The decoder: an operation and the bytes after it, or the name of what is missing. The format is the place the bytes
stand in (R130): the first byte of a frame, the value written to HXFR, the bytes drained from the setup FIFO. -/
def decode : Format → List Byte → Except DecodeError (Instr × List Byte)
  | .cmd8, b :: rest => .ok ((decodeCommand b).toInstr, rest)
  | .xfr8, v :: rest => .ok ((decodeTransfer v).toInstr, rest)
  | .sud64, bs =>
    if bs.length < Config.setupLen then .error (.shortSetup bs.length)
    else .ok (.sudDecode (bs.take Config.setupLen), bs.drop Config.setupLen)
  | .event, _ => .error .noBitPattern
  | fmt, [] => .error (.noByte fmt)

/-- The lowest `n` bytes of `w`, least significant first: the first byte of an encoding is bits 7 to 0 of its word. -/
def bytesOfWord : Nat → Nat → List Byte
  | 0, _ => []
  | n + 1, w => BitVec.ofNat 8 w :: bytesOfWord n (w / 256)

/-- The instruction the decoder reads from the opcode-table word `w` of `nbits` bits. Eight bits are read as the first
byte of a frame (CMD8), the one format the hardware takes from its input by itself; a transfer-control byte (XFR8) has the
same eight bits and is told apart only by where it stands, so `decode .xfr8` reads it (log entry 6). -/
def decodeTableWord (nbits w : Nat) : Option Instr :=
  match nbits with
  | 8 => (decode .cmd8 (bytesOfWord 1 w)).toOption.map (·.1)
  | 64 => (decode .sud64 (bytesOfWord Config.setupLen w)).toOption.map (·.1)
  | _ => none

/-- `cmd(IDX, DIR)` (R137): bits 0 and 2 are written 0. -/
def encodeCommand (idx : BitVec 5) (dir : Bool) : Byte :=
  (idx.zeroExtend 8 <<< 3) ||| (if dir then 0x02 else 0x00)

/-- The transfer-control byte of a request (R139): ignored bits are written 0. -/
def encodeTransfer : Transfer → Byte
  | .setup ep => 0x10 ||| ep.zeroExtend 8
  | .hs => 0x80
  | .out ep => 0x20 ||| ep.zeroExtend 8
  | .inn ep => ep.zeroExtend 8

/-- The low and the high byte of a little-endian field (R141). -/
def halfBytes (h : Half) : List Byte := [h.extractLsb' 0 8, h.extractLsb' 8 8]

/-- The eight bytes of a setup packet in queue order (R141). -/
def encodeSetup (p : Packet) : List Byte :=
  [p.bmRequestType, p.bRequest] ++ halfBytes p.wValue ++ halfBytes p.wIndex ++ halfBytes p.wLength

/-- The format of each operation (R143). -/
def Instr.format : Instr → Format
  | .cmdRd _ | .cmdWr _ => .cmd8
  | .xferSetup _ | .xferHs | .xferOut _ | .xferIn _ => .xfr8
  | .sudDecode _ => .sud64
  | _ => .event

/-- The encoder: the bytes of an operation that has a bit pattern (R130), `none` for an EVENT and for a setup operand that
is not eight bytes long. -/
def encode : Instr → Option (List Byte)
  | .cmdRd idx => some [encodeCommand idx false]
  | .cmdWr idx => some [encodeCommand idx true]
  | .xferSetup ep => some [encodeTransfer (.setup ep)]
  | .xferHs => some [encodeTransfer .hs]
  | .xferOut ep => some [encodeTransfer (.out ep)]
  | .xferIn ep => some [encodeTransfer (.inn ep)]
  | .sudDecode p => if p.length = Config.setupLen then some p else none
  | _ => none

end Sys2Proof
end

