-- ==== Sys2Proof/Machine/RegMap.lean ====
section
/-! DEFINITION. The exemplar's register map (R54 to R69, decision D12) as data, the widths of its fields, and the
exemplar's parameters (R9). -/

namespace Sys2Proof

/-- `f.width` (R31), with the exemplar's widths of R54. -/
def FieldId.width : FieldId → Nat
  | .rcvData | .sndData | .sudData | .hxfr => 8
  | .sndBc | .perAddr => 7
  | .busState => 2
  | .user _ w => w
  | _ => 1

/-- The width of a declared field. -/
abbrev Field.width (f : Field) : Nat := f.name.width

namespace Machine

/-- `(stored) => FQ.DEQ1(q)` (R55). -/
def dequeueProvider (q : QueueId) : Provider := { body := .call (.deq1 q 0), value := .num 0 }

/-- `(old, new) => FQ.ENQ1(q, new)` (R56, R57). -/
def enqueueHook (q : QueueId) : Hook := .call (.enq1 q .new)

/-- `(old, new) => Recompute()` (R59, R60, R62, R63, R64). -/
def recomputeHook : Hook := .call .recompute

/-- Oscillator-OK when the chip-reset bit falls (R61). -/
def oscOkHook : Hook :=
  .ite (.op .and (.op .eq .old (.lit 1)) (.op .eq .new (.lit 0)))
    (.seq (.call (.raw .oscOkIrq (.lit 1))) (.call .recompute)) .skip

/-- The clock started or stopped (R65). -/
def clockHook : Hook := .ite (.op .eq .new (.lit 1)) (.call .vcStart) (.call .vcStop)

/-- `(old, new) => P.XFER(new)` (R67). -/
def transferHook : Hook := .call (.transfer .new)

/-- A 1-bit request flag: write-one-to-clear, recomputing after a write (R59, R63). -/
def requestField (name : FieldId) (offset : Nat) : Field :=
  { name := name, offset := offset, mode := .w1c, postWrite := some recomputeHook }

/-- A 1-bit enable: read-write, recomputing after a write (R60, R62, R64). -/
def enableField (name : FieldId) (offset : Nat) : Field :=
  { name := name, offset := offset, mode := .rw, postWrite := some recomputeHook }

/-- RCVFIFO (R55). -/
def regRcvFifo : Register :=
  ⟨.rcvFifo, 1, [{ name := .rcvData, offset := 0, mode := .ro, provider := some (dequeueProvider .rcv) }], 0⟩
/-- SNDFIFO (R56). -/
def regSndFifo : Register :=
  ⟨.sndFifo, 2, [{ name := .sndData, offset := 0, mode := .wo, writeEffect := some (enqueueHook .snd) }], 0⟩
/-- SUDFIFO (R57). -/
def regSudFifo : Register :=
  ⟨.sudFifo, 4, [{ name := .sudData, offset := 0, mode := .wo, writeEffect := some (enqueueHook .sud) }], 0⟩
/-- SNDBC (R58). -/
def regSndBc : Register := ⟨.sndBc, 7, [{ name := .sndBc, offset := 0, mode := .rw }], 0⟩
/-- USBIRQ (R59). -/
def regUsbIrq : Register := ⟨.usbIrq, 13, [requestField .oscOkIrq 0], 0⟩
/-- USBIEN (R60). -/
def regUsbIen : Register := ⟨.usbIen, 14, [enableField .oscOkIe 0], 0⟩
/-- USBCTL (R61). -/
def regUsbCtl : Register :=
  ⟨.usbCtl, 15, [{ name := .chipRes, offset := 5, mode := .rw, postWrite := some oscOkHook }], 0⟩
/-- CPUCTL (R62). -/
def regCpuCtl : Register := ⟨.cpuCtl, 16, [enableField .ie 0], 0⟩
/-- HIRQ (R63). -/
def regHirq : Register :=
  ⟨.hirq, 25, [requestField .rcvDavIrq 2, requestField .sndBavIrq 3, requestField .condetIrq 5,
    requestField .frameIrq 6, requestField .hxfrdnIrq 7], 0⟩
/-- HIEN (R64). -/
def regHien : Register :=
  ⟨.hien, 26, [enableField .rcvDavIe 2, enableField .sndBavIe 3, enableField .condetIe 5,
    enableField .frameIe 6, enableField .hxfrdnIe 7], 0⟩
/-- MODE (R65). -/
def regMode : Register :=
  ⟨.mode, 27, [{ name := .sofKaEnab, offset := 3, mode := .rw, postWrite := some clockHook }], 0⟩
/-- PERADDR (R66). -/
def regPerAddr : Register := ⟨.perAddr, 28, [{ name := .perAddr, offset := 0, mode := .rw }], 0⟩
/-- HXFR (R67). -/
def regHxfr : Register :=
  ⟨.hxfr, 30, [{ name := .hxfr, offset := 0, mode := .rw, postWrite := some transferHook }], 0⟩
/-- HRSL (R68). -/
def regHrsl : Register := ⟨.hrsl, 31, [{ name := .busState, offset := 6, mode := .ro }], 0⟩

/-- `REGMAP` of the exemplar (R54): 14 registers; every other index is unmapped (R69). -/
def exemplarMap : List Register :=
  [regRcvFifo, regSndFifo, regSudFifo, regSndBc, regUsbIrq, regUsbIen, regUsbCtl, regCpuCtl, regHirq, regHien,
    regMode, regPerAddr, regHxfr, regHrsl]

/-- The exemplar's parameters, each OPEN one at the default the spec gives (R9, 92_eei_decisions.md). -/
def exemplarParams : Params :=
  { width := 8, regmap := exemplarMap, framing := .untilFrameEnd, attachStatus := 1, bulkOutSetsDone := true }

end Machine

end Sys2Proof
end

