-- ==== Sys2Proof/Machine/State.lean ====
section
/-! DEFINITION. The state of one peripheral instance as plain data: the record of R30, the parameters fixed at
construction (R9), and the model's own fields (whether the peripheral has been disposed, the outputs made, the agents' schedule). The reasons a step can
stop, and the state after reset (R80). -/

namespace Sys2Proof.Machine

/-- No operation of this hardware faults: R15, and 93_implementation_defined.md ("No behaviour of this hardware is
treated as `fault`"). The type is empty. -/
inductive Fault where
deriving DecidableEq, Repr

/-- Why the model refuses an operation (R15 (c): outside the model). Every one is safe: the model stops where the spec
gives no behaviour. -/
inductive Refusal where
  /-- raised by `exec` for an operation that has no meaning in the model; no arm does. Safe. -/
  | notModelled (mnemonic : String)
  /-- raised by an agent step, other than one that is not enabled, on a peripheral that
  P.DISPOSE has disposed (R422, U12). Safe. -/
  | disposed
  /-- raised by P.ATTACH at an address outside 0 to 127 (U9). Safe. -/
  | addressOutOfRange (a : Nat)
  /-- raised by P.ATTACH at an address that has a device (R322, U9). Safe. -/
  | addressOccupied (a : Nat)
  /-- raised by P.DETACH at an address that has no device (R323, U9). Safe. -/
  | addressEmpty (a : Nat)
  /-- raised by VC.OBTAIN and by construction for a rate that is not positive (R226, U8). Safe. -/
  | badRate (rate : Int)
  /-- raised by VC.ADVANCE for a negative amount of time, which is no operand of it (R233). Safe. -/
  | negativeTime (dt : Rat)
  /-- raised by construction for an ill-formed declaration or a receive capacity of zero (R38, U7, U8). Safe. -/
  | illFormed
deriving DecidableEq, Repr

/-- The current value of every field (R31 `bank.val`): the 22 exemplar fields under their own names (R55 to R68), and
the fields of a generic bank keyed by number and width, in rising order of key and with no zero entry. The 22 hold a value
whether or not the declaration lists them (DESIGN CHOICE, log entry 19). -/
structure FieldVals where
  rcvData   : Nat := 0
  sndData   : Nat := 0
  sudData   : Nat := 0
  sndBc     : Nat := 0
  oscOkIrq  : Nat := 0
  oscOkIe   : Nat := 0
  chipRes   : Nat := 0
  ie        : Nat := 0
  rcvDavIrq : Nat := 0
  sndBavIrq : Nat := 0
  condetIrq : Nat := 0
  frameIrq  : Nat := 0
  hxfrdnIrq : Nat := 0
  rcvDavIe  : Nat := 0
  sndBavIe  : Nat := 0
  condetIe  : Nat := 0
  frameIe   : Nat := 0
  hxfrdnIe  : Nat := 0
  sofKaEnab : Nat := 0
  perAddr   : Nat := 0
  hxfr      : Nat := 0
  busState  : Nat := 0
  other     : List (Nat × Nat) := []
deriving DecidableEq, Repr

/-- The bank's state (R30): the field values and the single-access guard flag (R41). -/
structure Bank where
  val  : FieldVals
  busy : Bool
deriving DecidableEq, Repr

/-- The three states of the protocol machine (R45). -/
inductive PsmState where
  | idle
  | writing (t : BitVec 5)
  | reading (t : BitVec 5)
deriving DecidableEq, Repr

/-- The protocol machine (R45): its state and the last decoded target. -/
structure Psm where
  state : PsmState
  last  : Option (BitVec 5)
deriving DecidableEq, Repr

/-- A FIFO queue (R47): its bytes, oldest first, and its constant capacity, `none` for `unbounded`. -/
structure Queue where
  bytes : List Byte
  cap   : Option Nat
deriving DecidableEq, Repr

/-- The VirtualClock (R49); `elapsed` is in seconds of virtual time. -/
structure Clock where
  callback : Callback
  rate     : Nat
  running  : Bool
  disposed : Bool
  elapsed  : Rat
deriving DecidableEq, Repr

/-- A pending one-shot subscription (R51). -/
structure Pending where
  id   : Nat
  kind : SubKind
deriving DecidableEq, Repr

/-- The result value of an operation (R131, R14 `return`). -/
inductive Result where
  | byte (b : Byte)
  | value (v : Nat)
  | bytes (bs : List Byte)
  | count (n : Nat)
  | packet (p : Option Packet)
  | clock (c : Clock)
deriving DecidableEq, Repr

/-- An output towards a collaborator (R14 `emit`, R75, R76), or the result of the operation taken. -/
inductive Output where
  | lineSet (b : Bool)
  | writeData (e : Endpoint) (bytes : List Byte)
  | subscribeDataReady (e : Endpoint) (id : Nat)
  | handleSetup (d : Device) (p : Packet) (id : Nat)
  | result (r : Result)
deriving DecidableEq, Repr

/-- The state of one peripheral instance (R30). `par` holds the parameters of R9; `ended`, `out` and `inbox` are the model's
own: whether P.DISPOSE has been taken (log entry 8), the outputs in the order they were made, and the agent steps still to
be taken, the next first (log entries 3, 4). -/
structure State where
  par    : Params
  bank   : Bank
  psm    : Psm
  cs     : Bool
  sud    : Queue
  snd    : Queue
  rcv    : Queue
  clk    : Clock
  irq    : Bool
  pend   : List Pending
  nextId : Nat
  dev    : List (Nat × Device)
  log    : List Report
  ended  : Bool
  out    : List Output
  inbox  : List Stimulus
deriving DecidableEq, Repr

/-- The state after construction of the exemplar (R80, R321), every OPEN parameter at the spec's default; the clock rate,
which has none, is 1 tick per second (log entry 1). No output has been driven (log entry 21). -/
def State.reset : State :=
  { par := exemplarParams
    bank := { val := {}, busy := false }
    psm := { state := .idle, last := none }
    cs := false
    sud := { bytes := [], cap := some Config.sudCap }
    snd := { bytes := [], cap := some Config.sndCap }
    rcv := { bytes := [], cap := none }
    clk := { callback := .frameTick, rate := 1, running := false, disposed := false, elapsed := 0 }
    irq := false
    pend := []
    nextId := 0
    dev := []
    log := []
    ended := false
    out := []
    inbox := [] }

end Sys2Proof.Machine
end

