-- ==== Sys2Proof/Machine/Operands.lean ====
section
/-! DEFINITION. Operand assembly and narrowing: masks and truncation (R12, R152), the part of a written value that belongs
to a field and a field's contribution to a read (R151), the endpoint and device lookups (R75, R326), and the keyed stores
in canonical form that hold the topology and the fields of a generic bank. -/

namespace Sys2Proof.Machine

/-- `mask(n) = 2^n - 1` (R12). -/
def mask (n : Nat) : Nat := 2 ^ n - 1

/-- `trunc_n(v) = v mod 2^n` (R12, R152). -/
def trunc (n v : Nat) : Nat := v % 2 ^ n

/-- The part of a written value that belongs to a field: `(trunc_W(v) >> offset) & mask(width)` (R151). -/
def fieldPart (W : Nat) (f : Field) (v : Nat) : Nat := (trunc W v >>> f.offset) &&& mask f.width

/-- The contribution of a field value to a read (R151). -/
def fieldImage (f : Field) (x : Nat) : Nat := x <<< f.offset

/-- `resetOf(f)`: the slice of the register's reset value (R34). -/
def resetOf (r : Register) (f : Field) : Nat := (r.reset >>> f.offset) &&& mask f.width

/-- The register at an offset, if one is declared there (R174). -/
def findRegister (m : List Register) (offset : Int) : Option Register := m.find? fun r => decide (r.index = offset)

/-- `d.endpoint(i)`: the answer until the topology changes (R75). -/
def deviceEndpoint (d : Device) (i : Nat) : Option Endpoint :=
  if i ∈ d.endpoints then some { device := d.ident, index := i } else none

/-- What a device answers after a change of the topology (R353, U24): its next list of indices, or the same one where it
has no other. -/
def nextAnswers (d : Device) : Device :=
  match d.later with
  | [] => d
  | answers :: rest => { d with endpoints := answers, later := rest }

/-- A change of the topology: every device that stays attached may answer otherwise from now on (R353, U24). -/
def topologyChange (m : List (Nat × Device)) : List (Nat × Device) := m.map fun e => (e.1, nextAnswers e.2)

/-- What a keyed store holds at a key. -/
def keyGet {α : Type} (k : Nat) : List (Nat × α) → Option α
  | [] => none
  | (k', v) :: rest => if k = k' then some v else keyGet k rest

/-- The store with one key set, keys kept rising. -/
def keyPut {α : Type} (k : Nat) (v : α) : List (Nat × α) → List (Nat × α)
  | [] => [(k, v)]
  | (k', v') :: rest =>
    if k < k' then (k, v) :: (k', v') :: rest
    else if k = k' then (k, v) :: rest
    else (k', v') :: keyPut k v rest

/-- The store without a key. -/
def keyDrop {α : Type} (k : Nat) (m : List (Nat × α)) : List (Nat × α) := m.filter fun e => decide (e.1 ≠ k)

/-- Canonical form of a keyed store: the keys rise strictly. -/
def keyWf {α : Type} (m : List (Nat × α)) : Bool := decide (m.Pairwise fun a b => a.1 < b.1)

/-- The key of a generic bank's field: number and width together. -/
def userKey (n w : Nat) : Nat := Nat.pair n w

/-- The value of a generic bank's field; a field not listed is 0. -/
def otherGet (k : Nat) (m : List (Nat × Nat)) : Nat := (keyGet k m).getD 0

/-- A generic bank's field set; 0 removes the entry, so that equal contents are equal lists. -/
def otherPut (k v : Nat) (m : List (Nat × Nat)) : List (Nat × Nat) :=
  if v = 0 then keyDrop k m else keyPut k v m

/-- The canonical form of the state's keyed stores. The hardware has no main memory (R90); what stands for it are the
fields of the bank, and the two stores held by key: the topology and the fields of a generic bank. -/
def Memory.wf (s : State) : Bool :=
  keyWf s.dev && keyWf s.bank.val.other && s.bank.val.other.all fun e => decide (e.2 ≠ 0)

end Sys2Proof.Machine
end

