-- ==== Sys2Proof/Machine/Flags.lean ====
section
/-! DEFINITION. The flags: reading and storing a field's value under its name, the write-one-to-clear law (R153, R180),
the six request/enable pairs and the aggregator's formula (R70, R154, R211). -/

namespace Sys2Proof.Machine

/-- The current value of a field (R31). -/
def FieldVals.get (b : FieldVals) : FieldId → Nat
  | .rcvData => b.rcvData
  | .sndData => b.sndData
  | .sudData => b.sudData
  | .sndBc => b.sndBc
  | .oscOkIrq => b.oscOkIrq
  | .oscOkIe => b.oscOkIe
  | .chipRes => b.chipRes
  | .ie => b.ie
  | .rcvDavIrq => b.rcvDavIrq
  | .sndBavIrq => b.sndBavIrq
  | .condetIrq => b.condetIrq
  | .frameIrq => b.frameIrq
  | .hxfrdnIrq => b.hxfrdnIrq
  | .rcvDavIe => b.rcvDavIe
  | .sndBavIe => b.sndBavIe
  | .condetIe => b.condetIe
  | .frameIe => b.frameIe
  | .hxfrdnIe => b.hxfrdnIe
  | .sofKaEnab => b.sofKaEnab
  | .perAddr => b.perAddr
  | .hxfr => b.hxfr
  | .busState => b.busState
  | .user n w => otherGet (userKey n w) b.other

/-- The field values with one of them set. -/
def FieldVals.set (b : FieldVals) (f : FieldId) (v : Nat) : FieldVals :=
  match f with
  | .rcvData => { b with rcvData := v }
  | .sndData => { b with sndData := v }
  | .sudData => { b with sudData := v }
  | .sndBc => { b with sndBc := v }
  | .oscOkIrq => { b with oscOkIrq := v }
  | .oscOkIe => { b with oscOkIe := v }
  | .chipRes => { b with chipRes := v }
  | .ie => { b with ie := v }
  | .rcvDavIrq => { b with rcvDavIrq := v }
  | .sndBavIrq => { b with sndBavIrq := v }
  | .condetIrq => { b with condetIrq := v }
  | .frameIrq => { b with frameIrq := v }
  | .hxfrdnIrq => { b with hxfrdnIrq := v }
  | .rcvDavIe => { b with rcvDavIe := v }
  | .sndBavIe => { b with sndBavIe := v }
  | .condetIe => { b with condetIe := v }
  | .frameIe => { b with frameIe := v }
  | .hxfrdnIe => { b with hxfrdnIe := v }
  | .sofKaEnab => { b with sofKaEnab := v }
  | .perAddr => { b with perAddr := v }
  | .hxfr => { b with hxfr := v }
  | .busState => { b with busState := v }
  | .user n w => { b with other := otherPut (userKey n w) v b.other }

/-- Write-one-to-clear: `new = old & ~x` within the field's width (R153). -/
def w1cNew (width old x : Nat) : Nat := old &&& (mask width ^^^ x)

/-- The request/enable pairs in the order the spec numbers them (R70). -/
def irqPairs : List (FieldId × FieldId) :=
  [(.oscOkIrq, .oscOkIe), (.rcvDavIrq, .rcvDavIe), (.sndBavIrq, .sndBavIe), (.condetIrq, .condetIe),
    (.frameIrq, .frameIe), (.hxfrdnIrq, .hxfrdnIe)]

/-- The request flags (R70). -/
def requestFlags : List FieldId := irqPairs.map (·.1)

/-- A 1-bit field as a Boolean. -/
def FieldVals.bit (b : FieldVals) (f : FieldId) : Bool := b.get f != 0

/-- The aggregator in its generic form (R210): one master field, and the OR over a list of pairs of request and enable. -/
def aggregateOver (master : FieldId) (pairs : List (FieldId × FieldId)) (b : FieldVals) : Bool :=
  b.bit master && pairs.any fun p => b.bit p.1 && b.bit p.2

/-- The aggregator's formula of the exemplar (R154, R211): master enable IE and the six pairs. -/
def aggregate (b : FieldVals) : Bool := aggregateOver .ie irqPairs b

end Sys2Proof.Machine
end

