-- ==== Sys2Proof/Machine/Ops.lean ====
section
/-! DEFINITION. The named operations over the state that the meanings share: raw access to fields (R40), reports and
outputs (R14), the interrupt line (R211, R212), RAISING AN INTERRUPT (R390, what stands where an ISA has trap entry) and its
acknowledge (R393), the queues (R253 to R261), the clock (R226 to R231), subscriptions (R51) and topology (R52). -/

namespace Sys2Proof.Machine

/-- What one operation of the machine answers. -/
abbrev Answer := Host.Outcome State Fault Refusal

/-- `report Code(info)`: the operation goes on (R14, R371). -/
def State.report (s : State) (r : Report) : State := { s with log := s.log ++ [r] }

/-- `emit Out(args)` (R14). -/
def State.emit (s : State) (o : Output) : State := { s with out := s.out ++ [o] }

/-- `return v` of an operation taken (R14). -/
def State.result (s : State) (r : Result) : State := s.emit (.result r)

/-- Raw read of a field: no mode check, no provider (R40). A field that the declaration does not list has a value too, which
this reads (DESIGN CHOICE, log entry 19). -/
def State.fld (s : State) (f : FieldId) : Nat := s.bank.val.get f

/-- The field's stored value replaced. -/
def State.setFld (s : State) (f : FieldId) (v : Nat) : State :=
  { s with bank := { s.bank with val := s.bank.val.set f v } }

/-- `REG.FIELD <- v`: raw update, truncated to the field's width, whatever its mode, no hook (R40, R152). A field that the
declaration does not list is updated too (DESIGN CHOICE, log entry 19). -/
def State.raw (s : State) (f : FieldId) (v : Nat) : State := s.setFld f (trunc f.width v)

/-- `x[i]`: the raw value of the whole register at an index, 0 where there is none (R14). -/
def State.rawRegister (s : State) (offset : Int) : Nat :=
  match findRegister s.par.regmap offset with
  | none => 0
  | some r => r.fields.foldl (fun acc f => acc ||| fieldImage f (s.fld f.name)) 0

/-- The single-access guard flag (R41). -/
def State.setBusy (s : State) (b : Bool) : State := { s with bank := { s.bank with busy := b } }

/-- LINE.SET (R212). -/
def setLine (b : Bool) (s : State) : State := { s with irq := b }.emit (.lineSet b)

/-- IA.RECOMPUTE (R211). -/
def recompute (s : State) : State := setLine (aggregate s.bank.val) s

/-- Raising an interrupt: the event sets its request flag by raw update and recomputes the line, in its own step; nothing
is saved and no control goes anywhere (R390). -/
def raiseFlag (f : FieldId) (s : State) : State := recompute (s.raw f 1)

/-- The acknowledge: write-one-to-clear of a request flag with the written part `x`, and the recompute its `postWrite` hook
makes (R393, R180). -/
def acknowledge (f : FieldId) (x : Nat) (s : State) : State :=
  recompute (s.setFld f (w1cNew f.width (s.fld f) x))

/-- One of the three queues (R48). -/
def State.queue (s : State) : QueueId → Queue
  | .sud => s.sud
  | .snd => s.snd
  | .rcv => s.rcv

/-- A queue's bytes replaced; its capacity is constant (R47). -/
def State.setBytes (s : State) (q : QueueId) (bs : List Byte) : State :=
  match q with
  | .sud => { s with sud := { s.sud with bytes := bs } }
  | .snd => { s with snd := { s.snd with bytes := bs } }
  | .rcv => { s with rcv := { s.rcv with bytes := bs } }

/-- `last(n, q)`: the newest `n` elements (R12). -/
def newest {α : Type} (n : Nat) (bs : List α) : List α := bs.drop (bs.length - n)

/-- FQ.ENQN (R254): append, then trim the oldest, with one report for what was dropped. -/
def enqN (q : QueueId) (bs : List Byte) (s : State) : State :=
  let all := (s.queue q).bytes ++ bs
  match (s.queue q).cap with
  | none => s.setBytes q all
  | some c =>
    if c < all.length then (s.setBytes q (newest c all)).report (.fifoOverflow q (all.length - c))
    else s.setBytes q all

/-- FQ.ENQ1 (R253). -/
def enq1 (q : QueueId) (b : Byte) (s : State) : State := enqN q [b] s

/-- FQ.DEQ1 (R257): zero and a report when empty. -/
def deq1 (q : QueueId) (s : State) : Byte × State :=
  match (s.queue q).bytes with
  | [] => (0, s.report (.fifoUnderflow q))
  | b :: rest => (b, s.setBytes q rest)

/-- FQ.DEQN (R258): the oldest `min n count` bytes, no report. -/
def deqN (q : QueueId) (n : Nat) (s : State) : List Byte × State :=
  ((s.queue q).bytes.take n, s.setBytes q ((s.queue q).bytes.drop n))

/-- FQ.DEQALL (R259). -/
def deqAll (q : QueueId) (s : State) : List Byte × State := ((s.queue q).bytes, s.setBytes q [])

/-- FQ.COUNT (R260). -/
def count (q : QueueId) (s : State) : Nat := (s.queue q).bytes.length

/-- FQ.CLEAR (R261). -/
def clearQueue (q : QueueId) (s : State) : State := s.setBytes q []

/-- VC.START (R228). -/
def clockStart (s : State) : State :=
  if s.clk.disposed || s.clk.running then s
  else { s with clk := { s.clk with running := true, elapsed := 0 } }

/-- VC.STOP (R229). -/
def clockStop (s : State) : State := { s with clk := { s.clk with running := false, elapsed := 0 } }

/-- VC.DISPOSE (R230). -/
def clockDispose (s : State) : State :=
  { s with clk := { s.clk with running := false, disposed := true, elapsed := 0 } }

/-- The clock VC.OBTAIN returns (R226). -/
def newClock (callback : Callback) (rate : Nat) : Clock :=
  { callback := callback, rate := rate, running := false, disposed := false, elapsed := 0 }

/-- P.FRAMETICK (R324). -/
def frameTick (s : State) : State := raiseFlag .frameIrq s

/-- `call clk.callback()` (R231). -/
def callCallback : Callback → State → State
  | .frameTick, s => frameTick s

/-- VC.TICK is enabled (R231). -/
def clockEnabled (s : State) : Bool := s.clk.running && !s.clk.disposed

/-- VC.TICK in a state where it is enabled (R231). -/
def clockTick (s : State) : State :=
  callCallback s.clk.callback { s with clk := { s.clk with elapsed := 0 } }

/-- The clock's period `T = 1 / rate` (R233). -/
def period (s : State) : Rat := 1 / (s.clk.rate : Rat)

/-- A new one-shot subscription takes a fresh identifier (R51). -/
def subscribe (kind : SubKind) (s : State) : Nat × State :=
  (s.nextId, { s with nextId := s.nextId + 1, pend := s.pend ++ [{ id := s.nextId, kind := kind }] })

/-- The record of a subscription leaves `pend` (R338, R344). -/
def unsubscribe (p : Pending) (s : State) : State := { s with pend := s.pend.filter fun x => decide (x ≠ p) }

/-- `dev[a]` (R52). -/
def State.device (s : State) (a : Nat) : Option Device := keyGet a s.dev

/-- The addressed device `dev[PERADDR.PERADDR]` (R326). -/
def addressedDevice (s : State) : Option Device := s.device (s.fld .perAddr)

/-- The topology with a device put at an address, which is a change of the topology for the devices there (R52, R353). -/
def attachDevice (a : Nat) (d : Device) (s : State) : State := { s with dev := keyPut a d (topologyChange s.dev) }

/-- The topology with an address cleared, which is a change of the topology for the devices that stay (R52, R353). -/
def detachDevice (a : Nat) (s : State) : State := { s with dev := topologyChange (keyDrop a s.dev) }

/-- The select level (R46). -/
def State.setCs (s : State) (b : Bool) : State := { s with cs := b }

/-- The protocol machine's state replaced; the last decoded target is kept. -/
def State.setPsm (s : State) (p : PsmState) : State := { s with psm := { s.psm with state := p } }

/-- A command decoded (R277): the target is recorded and the machine enters the state of its direction (R278, R279). -/
def command (c : Command) (s : State) : State :=
  match c with
  | .wr t => { s with psm := { state := .writing t, last := some t } }
  | .rd t => { s with psm := { state := .reading t, last := some t } }

/-- PSM.FRAMEEND (R283). -/
def frameEnd (s : State) : State := s.setPsm .idle

/-- PSM.RESET (R284). -/
def psmReset (s : State) : State := { s with psm := { state := .idle, last := none } }

/-- An agent step after P.DISPOSE is outside the model (R422, U12). A clock that VC.DISPOSE has disposed by itself ends
nothing (log entry 8). -/
def live (s : State) (answer : Answer) : Answer := if s.ended then .refused .disposed else answer

end Sys2Proof.Machine
end

