-- ==== Sys2Proof/Machine/Interrupt.lean ====
section
/-! DEFINITION. The InterruptAggregator operations (41_interrupt_aggregator.md). -/

namespace Sys2Proof.Machine

/-- IA.RECOMPUTE (R211). -/
def execIaRecompute (s : State) : Answer := .next (recompute s)

/-- LINE.SET (R212). -/
def execLineSet (b : Bool) (s : State) : Answer := .next (setLine b s)

end Sys2Proof.Machine
end

