-- ==== Sys2Proof/Machine/Queue.lean ====
section
/-! DEFINITION. The FIFOQueue operations (43_fifoqueue.md). -/

namespace Sys2Proof.Machine

/-- FQ.ENQ1 (R253). -/
def execFqEnq1 (q : QueueId) (b : Byte) (s : State) : Answer := .next (enq1 q b s)

/-- FQ.ENQN (R254). -/
def execFqEnqN (q : QueueId) (bytes : List Byte) (s : State) : Answer := .next (enqN q bytes s)

/-- FQ.DEQ1 (R257). -/
def execFqDeq1 (q : QueueId) (s : State) : Answer := .next ((deq1 q s).2.result (.byte (deq1 q s).1))

/-- FQ.DEQN (R258). -/
def execFqDeqN (q : QueueId) (n : Nat) (s : State) : Answer := .next ((deqN q n s).2.result (.bytes (deqN q n s).1))

/-- FQ.DEQALL (R259). -/
def execFqDeqAll (q : QueueId) (s : State) : Answer := .next ((deqAll q s).2.result (.bytes (deqAll q s).1))

/-- FQ.COUNT (R260). -/
def execFqCount (q : QueueId) (s : State) : Answer := .next (s.result (.count (count q s)))

/-- FQ.CLEAR (R261). -/
def execFqClear (q : QueueId) (s : State) : Answer := .next (clearQueue q s)

end Sys2Proof.Machine
end

