-- ==== Sys2Proof/Machine/Transfer.lean ====
section
/-! DEFINITION. The exemplar peripheral's transfer logic (46_peripheral_transfer.md). -/

namespace Sys2Proof.Machine

/-- P.ATTACH (R322): the address is 0 to 127 and free (U9). -/
def execPAttach (a : Nat) (d : Device) (s : State) : Answer :=
  live s <|
    if 128 ≤ a then .refused (.addressOutOfRange a)
    else if (s.device a).isSome then .refused (.addressOccupied a)
    else
      .next (raiseFlag .condetIrq ((attachDevice a d s).raw .busState s.par.attachStatus.toNat))

/-- P.DETACH (R323): BUSSTATE is not changed. -/
def execPDetach (a : Nat) (s : State) : Answer :=
  live s <|
    if (s.device a).isSome then .next (raiseFlag .condetIrq (detachDevice a s))
    else .refused (.addressEmpty a)

/-- P.FRAMETICK (R324). -/
def execPFrameTick (s : State) : Answer := .next (frameTick s)

/-- The completion of a request without I/O: the done flag, and recompute (R327, R329, R332, R336). -/
def transferDone (s : State) : State := raiseFlag .hxfrdnIrq s

/-- An absent device: reported, and completed (R327). -/
def absentDevice (s : State) : State := transferDone (s.report (.noDevice (s.fld .perAddr)))

/-- P.SETUP (R330). -/
def setupTransaction (d : Device) (s : State) : State :=
  let drained := deqAll .sud s
  match decodeSetup drained.1 with
  | none => drained.2.report (.setupDecode drained.1.length)
  | some p =>
    let sub := subscribe .setupResp drained.2
    sub.2.emit (.handleSetup d p sub.1)

/-- The report of a declared count that is not the count queued (R334). -/
def reportMismatch (n k : Nat) (s : State) : State := if n ≠ k then s.report (.byteCountMismatch n k) else s

/-- The oldest `n` bytes of the send FIFO, or all of them if fewer, delivered to an endpoint (R334). -/
def deliver (e : Endpoint) (n : Nat) (s : State) : State := (deqN .snd n s).2.emit (.writeData e (deqN .snd n s).1)

/-- The flags at the end of a bulk OUT: send-buffer-available, and done where the parameter says so (R334). -/
def bulkOutFlags (s : State) : State :=
  if s.par.bulkOutSetsDone then (s.raw .sndBavIrq 1).raw .hxfrdnIrq 1 else s.raw .sndBavIrq 1

/-- P.BULKOUT (R334). -/
def bulkOut (e : Endpoint) (s : State) : State :=
  recompute (bulkOutFlags (deliver e (s.fld .sndBc) (reportMismatch (s.fld .sndBc) (count .snd s) s)))

/-- P.BULKIN (R336). -/
def bulkIn (eo : Option Endpoint) (s : State) : State :=
  match eo with
  | none => transferDone s
  | some e =>
    let sub := subscribe .dataReady s
    sub.2.emit (.subscribeDataReady e sub.1)

/-- XFER.SETUP on the device found (R328): any endpoint but 0 aborts with no flag. -/
def setupRequest (d : Device) (ep : BitVec 4) (s : State) : State :=
  if ep ≠ 0 then s.report (.setupBadEp ep.toNat) else setupTransaction d s

/-- XFER.OUT on the device found (R332). -/
def outRequest (d : Device) (ep : BitVec 4) (s : State) : State :=
  if ep = 0 then transferDone s
  else
    match deviceEndpoint d ep.toNat with
    | none => transferDone (s.report (.noEndpoint ep.toNat))
    | some e => bulkOut e s

/-- XFER.IN on the device found (R333). -/
def inRequest (d : Device) (ep : BitVec 4) (s : State) : State :=
  if ep = 0 then bulkIn none s
  else
    match deviceEndpoint d ep.toNat with
    | none => bulkIn none (s.report (.noEndpoint ep.toNat))
    | some e => bulkIn (some e) s

/-- A request of one kind to the addressed device, or its completion where that device is absent: the lookup comes before
the kind is looked at (R325, R326, R327). -/
def request (onDevice : Device → State → State) (s : State) : State :=
  match addressedDevice s with
  | none => absentDevice s
  | some d => onDevice d s

/-- P.XFER (R325): the four kinds in the order SETUP, HS, data. -/
def transferTrigger (v : Byte) (s : State) : State :=
  request (fun d s =>
    match decodeTransfer v with
    | .setup ep => setupRequest d ep s
    | .hs => transferDone s
    | .out ep => outRequest d ep s
    | .inn ep => inRequest d ep s) s

/-- P.XFER (R325). -/
def execPXfer (v : Byte) (s : State) : Answer := .next (transferTrigger v s)

/-- XFER.SETUP (R328), to the addressed device. -/
def execXferSetup (ep : BitVec 4) (s : State) : Answer := .next (request (fun d s => setupRequest d ep s) s)

/-- XFER.HS (R329), to the addressed device. -/
def execXferHs (s : State) : Answer := .next (request (fun _ s => transferDone s) s)

/-- XFER.OUT (R332), to the addressed device. -/
def execXferOut (ep : BitVec 4) (s : State) : Answer := .next (request (fun d s => outRequest d ep s) s)

/-- XFER.IN (R333), to the addressed device. -/
def execXferIn (ep : BitVec 4) (s : State) : Answer := .next (request (fun d s => inRequest d ep s) s)

/-- P.SETUP (R330). -/
def execPSetup (d : Device) (s : State) : Answer := .next (setupTransaction d s)

/-- SUD.DECODE (R331): pure. -/
def execSudDecode (p : List Byte) (s : State) : Answer := .next (s.result (.packet (decodeSetup p)))

/-- P.BULKOUT (R334). -/
def execPBulkOut (e : Endpoint) (s : State) : Answer := .next (bulkOut e s)

/-- P.BULKIN (R336). -/
def execPBulkIn (eo : Option Endpoint) (s : State) : Answer := .next (bulkIn eo s)

/-- A completion callback of a pending subscription (R338, R344). -/
def complete (p : Pending) (bytes : List Byte) (s : State) : State :=
  let s1 := enqN .rcv bytes (unsubscribe p s)
  let s2 := if bytes = [] then s1 else s1.raw .rcvDavIrq 1
  raiseFlag .hxfrdnIrq s2

/-- A callback that is enabled completes; one that is not has no step and changes nothing (R346, R422, U10). -/
def callback (p : Pending) (bytes : List Byte) (s : State) : Answer :=
  .next (if p ∈ s.pend ∧ s.ended = false then complete p bytes s else s)

/-- CB.DATAREADY (R338); the context is ignored. -/
def execCbDataReady (id _context : Nat) (bytes : List Byte) (s : State) : Answer :=
  callback { id := id, kind := .dataReady } bytes s

/-- CB.SETUPRESP (R344). -/
def execCbSetupResp (id : Nat) (bytes : List Byte) (s : State) : Answer :=
  callback { id := id, kind := .setupResp } bytes s

end Sys2Proof.Machine
end

