-- ==== Sys2Proof/Machine/Hooks.lean ====
section
/-! DEFINITION. What a hook does (R33, R181, R183): the numbers it computes, the calls it makes on the state, and the two ways
a bank access calls one, as a value provider and as a write hook. The exemplar's hooks stand in Machine/RegMap.lean. -/

namespace Sys2Proof.Machine

/-- A running hook: its arguments (R33), its own numbers and byte sequences, and the state it works on. -/
structure HookRun where
  old   : Nat
  new   : Nat
  nums  : Nat → Nat
  seqs  : Nat → List Byte
  state : State

/-- What a hook can read of the state: not the log nor the last decoded target, which influence nothing (R45, R53), and not
the model's own fields. The line and the clock's phase stay readable, though R50 has the line read by no rule and R49 the
phase used by the timed view alone (DESIGN CHOICE, log entry 11). -/
def State.hookView (s : State) : State :=
  { s with psm := { s.psm with last := none }, log := [], ended := false, out := [], inbox := [] }

end Sys2Proof.Machine

namespace Sys2Proof

/-- The functions that the hooks of an implementation's declaration use, numbered: of the hook's two arguments and of the
state it can read (R33: a hook is any function). Nothing is known of them (log entry 11). -/
opaque Config.declaredFunction (n old new : Nat) (view : Machine.State) : Nat

end Sys2Proof

namespace Sys2Proof.Machine

/-- A Boolean as a number. -/
def flag (b : Bool) : Nat := if b then 1 else 0

/-- The state of the protocol machine as a number, and its target. -/
def psmCode : PsmState → Nat × Nat
  | .idle => (0, 0)
  | .writing t => (1, t.toNat)
  | .reading t => (2, t.toNat)

/-- A number the state holds, as a hook reads it (log entry 11: the line, R50, and the clock's phase, R49, among them). -/
def readPart (s : State) : StatePart → Nat
  | .field f => s.fld f
  | .register offset => s.rawRegister offset
  | .count q => count q s
  | .line => flag s.irq
  | .selected => flag s.cs
  | .psmState => (psmCode s.psm.state).1
  | .psmTarget => (psmCode s.psm.state).2
  | .running => flag s.clk.running
  | .disposed => flag s.clk.disposed
  | .rate => s.clk.rate
  | .elapsedNum => s.clk.elapsed.num.toNat
  | .elapsedDen => s.clk.elapsed.den
  | .nextId => s.nextId

/-- The value of an operation. -/
def applyOp : HookOp → Nat → Nat → Nat
  | .add, x, y => x + y
  | .sub, x, y => x - y
  | .mul, x, y => x * y
  | .div, x, y => x / y
  | .mod, x, y => x % y
  | .and, x, y => x &&& y
  | .or, x, y => x ||| y
  | .xor, x, y => x ^^^ y
  | .shl, x, y => x <<< y
  | .shr, x, y => x >>> y
  | .eq, x, y => flag (x == y)
  | .lt, x, y => flag (decide (x < y))

/-- The number a hook computes. -/
def evalExpr (x : HookRun) : HookExpr → Nat
  | .lit n => n
  | .old => x.old
  | .new => x.new
  | .num k => x.nums k
  | .len k => (x.seqs k).length
  | .item k i => ((x.seqs k).getD (evalExpr x i) 0).toNat
  | .part p => readPart x.state p
  | .queued q i => ((x.state.queue q).bytes.getD (evalExpr x i) 0).toNat
  | .pending id kind => flag (decide (⟨evalExpr x id, kind⟩ ∈ x.state.pend))
  | .attached a => flag (x.state.device (evalExpr x a)).isSome
  | .op o a b => applyOp o (evalExpr x a) (evalExpr x b)
  | .declared n => Config.declaredFunction n x.old x.new x.state.hookView

/-- The byte a hook computes. -/
def exprByte (x : HookRun) (e : HookExpr) : Byte := BitVec.ofNat 8 (evalExpr x e)

/-- One of the hook's own numbers replaced. -/
def HookRun.setNum (x : HookRun) (k v : Nat) : HookRun := { x with nums := fun j => if j = k then v else x.nums j }

/-- One of the hook's own byte sequences replaced. -/
def HookRun.setSeq (x : HookRun) (k : Nat) (bs : List Byte) : HookRun :=
  { x with seqs := fun j => if j = k then bs else x.seqs j }

/-- The state a hook works on after a call. -/
def HookRun.on (x : HookRun) (f : State → State) : HookRun := { x with state := f x.state }

/-- A bank access started by a hook. The guard is set while hooks run (R41), so the access is reported and answers 0 or does
nothing (R183). -/
def innerAccess (offset : Int) (s : State) : State := s.report (.reentrant offset)

/-- One call of a hook (R33, R183). That a hook may change what R45, R46, R50, R51, R52 and R71 let named operations change
alone, may make every report of R372, DECODE_ERROR (R285) among them, and what `attach` and `detach` do outside the
precondition of the agent's step, are the model's choice (DESIGN CHOICE, log entry 11). -/
def runCall : HookCall → HookRun → HookRun
  | .setNum k e, x => x.setNum k (evalExpr x e)
  | .push k e, x => x.setSeq k (x.seqs k ++ [exprByte x e])
  | .drop k, x => x.setSeq k []
  | .raw f e, x => x.on fun s => s.raw f (evalExpr x e)
  | .enq1 q e, x => x.on (enq1 q (exprByte x e))
  | .enqN q k, x => x.on (enqN q (x.seqs k))
  | .deq1 q k, x => (x.on fun s => (deq1 q s).2).setNum k (deq1 q x.state).1.toNat
  | .deqN q n k, x => (x.on fun s => (deqN q (evalExpr x n) s).2).setSeq k (deqN q (evalExpr x n) x.state).1
  | .deqAll q k, x => (x.on fun s => (deqAll q s).2).setSeq k (deqAll q x.state).1
  | .clear q, x => x.on (clearQueue q)
  | .recompute, x => x.on recompute
  | .line e, x => x.on (setLine (evalExpr x e != 0))
  | .vcStart, x => x.on clockStart
  | .vcStop, x => x.on clockStop
  | .vcDispose, x => x.on clockDispose
  | .transfer e, x => x.on (transferTrigger (exprByte x e))
  | .setup d, x => x.on (setupTransaction d)
  | .bulkOut e, x => x.on (bulkOut e)
  | .bulkIn eo, x => x.on (bulkIn eo)
  | .writeData e k, x => x.on fun s => s.emit (.writeData e (x.seqs k))
  | .subscribe kind k, x => (x.on fun s => (subscribe kind s).2).setNum k (subscribe kind x.state).1
  | .unsubscribe id kind, x => x.on (unsubscribe ⟨evalExpr x id, kind⟩)
  | .attach a d, x => x.on (attachDevice (trunc 7 (evalExpr x a)) d)
  | .detach a, x => x.on (detachDevice (trunc 7 (evalExpr x a)))
  | .command e, x => x.on (command (decodeCommand (exprByte x e)))
  | .frameEnd, x => x.on frameEnd
  | .psmReset, x => x.on psmReset
  | .select e, x => x.on fun s => s.setCs (evalExpr x e != 0)
  | .report r, x => x.on fun s => s.report r
  | .bankRead offset _ k, x => (x.on (innerAccess offset)).setNum k 0
  | .bankWrite offset _ _, x => x.on (innerAccess offset)

/-- A hook run to its end. -/
def runHook : Hook → HookRun → HookRun
  | .skip, x => x
  | .call c, x => runCall c x
  | .seq a b, x => runHook b (runHook a x)
  | .ite e a b, x => if evalExpr x e ≠ 0 then runHook a x else runHook b x
  | .rep e a, x => Nat.iterate (runHook a) (evalExpr x e) x

/-- A hook at its start: its own numbers 0 and its own sequences empty. -/
def HookRun.start (old new : Nat) (s : State) : HookRun :=
  { old := old, new := new, nums := fun _ => 0, seqs := fun _ => [], state := s }

/-- `call f.provider(stored)` (R33): the value returned, and the state after it. -/
def callProvider (p : Provider) (stored : Nat) (s : State) : Nat × State :=
  let x := runHook p.body (.start stored stored s)
  (evalExpr x p.value, x.state)

/-- `call f.hook(old, new)` (R33). -/
def callHook (h : Hook) (old new : Nat) (s : State) : State := (runHook h (.start old new s)).state

end Sys2Proof.Machine
end

