-- ==== Sys2Proof/Machine/RegisterBank.lean ====
section
/-! DEFINITION. The RegisterBank operations (40_registerbank.md), for any declaration: reads with their providers, the
two-phase write with its hooks, the guard, the reset of the fields, and the bus-facing access. -/

namespace Sys2Proof.Machine

/-- `F.READ(f)` (R173, R175): WO reads 0 and calls nothing; a provider's result is truncated and not stored. -/
def readField (f : Field) (s : State) : Nat × State :=
  match f.mode with
  | .wo => (0, s)
  | _ =>
    match f.provider with
    | none => (s.fld f.name, s)
    | some p => (trunc f.width (callProvider p (s.fld f.name) s).1, (callProvider p (s.fld f.name) s).2)

/-- The fields of a register read in order, each added to the result at its offset (R172). -/
def readFields : List Field → Nat → State → Nat × State
  | [], acc, s => (acc, s)
  | f :: fs, acc, s => readFields fs (acc ||| fieldImage f (readField f s).1) (readField f s).2

/-- RB.READ (R172): guard, width, unmapped, then the register. -/
def bankRead (offset : Int) (width : Nat) (s : State) : Nat × State :=
  if s.bank.busy then (0, s.report (.reentrant offset))
  else if width ≠ s.par.width then (0, s.report (.badWidth offset width))
  else
    match findRegister s.par.regmap offset with
    | none => (0, s.report (.unmappedRead offset))
    | some r =>
      let read := readFields r.fields 0 (s.setBusy true)
      (read.1, read.2.setBusy false)

/-- The store of one field in phase 1 of a write (R177, R179, R180). -/
def storeField (W v : Nat) (f : Field) (s : State) : State :=
  match f.mode with
  | .ro => s
  | .wo | .rw => s.setFld f.name (fieldPart W f v)
  | .w1c => s.setFld f.name (w1cNew f.width (s.fld f.name) (fieldPart W f v))

/-- Phase 1 of a write: every field takes its part of the value (R176). -/
def storeFields (W v : Nat) : List Field → State → State
  | [], s => s
  | f :: fs, s => storeFields W v fs (storeField W v f s)

/-- A hook called if it is present (R181). -/
def callPresent : Option Hook → Nat → Nat → State → State
  | none, _, _, s => s
  | some h, old, new, s => callHook h old new s

/-- The hooks of one field: `writeEffect`, then `postWrite`; none for RO (R181). -/
def fieldHooks (f : Field) (old new : Nat) (s : State) : State :=
  match f.mode with
  | .ro => s
  | _ => callPresent f.postWrite old new (callPresent f.writeEffect old new s)

/-- Phase 2 of a write: the hooks of every field in order, each with its value before and after phase 1 (R176). -/
def runHooks (before after : FieldVals) : List Field → State → State
  | [], s => s
  | f :: fs, s => runHooks before after fs (fieldHooks f (before.get f.name) (after.get f.name) s)

/-- A write to a register that is declared (R176). -/
def writeRegister (r : Register) (value : Nat) (s : State) : State :=
  let stored := storeFields s.par.width value r.fields (s.setBusy true)
  (runHooks s.bank.val stored.bank.val r.fields stored).setBusy false

/-- RB.WRITE (R176): guard, width, unmapped, then the register. -/
def bankWrite (offset : Int) (width value : Nat) (s : State) : State :=
  if s.bank.busy then s.report (.reentrant offset)
  else if width ≠ s.par.width then s.report (.badWidth offset width)
  else
    match findRegister s.par.regmap offset with
    | none => s.report (.unmappedWrite offset value)
    | some r => writeRegister r value s

/-- The fields of one register at their reset values (R184). -/
def resetRegister (r : Register) : List Field → FieldVals → FieldVals
  | [], b => b
  | f :: fs, b => resetRegister r fs (b.set f.name (resetOf r f))

/-- Every declared field at its reset value (R184). A field that the declaration does not list keeps its value (DESIGN CHOICE,
log entry 19). -/
def resetFields : List Register → FieldVals → FieldVals
  | [], b => b
  | r :: rs, b => resetFields rs (resetRegister r r.fields b)

/-- RB.RESET (R184): no hook runs. -/
def bankReset (s : State) : State :=
  { s with bank := { val := resetFields s.par.regmap s.bank.val, busy := false } }

/-- RB.READ (R172). -/
def execRbRead (offset : Int) (width : Nat) (s : State) : Answer :=
  .next ((bankRead offset width s).2.result (.value (bankRead offset width s).1))

/-- RB.WRITE (R176). -/
def execRbWrite (offset : Int) (width value : Nat) (s : State) : Answer := .next (bankWrite offset width value s)

/-- RB.RESET (R184). -/
def execRbReset (s : State) : Answer := .next (bankReset s)

/-- The byte a bus-side read of width 8 returns. -/
def readByte (offset : Int) (s : State) : Byte × State :=
  (BitVec.ofNat 8 (bankRead offset 8 s).1, (bankRead offset 8 s).2)

/-- BUS.READ (R185). -/
def execBusRead (offset : Int) (s : State) : Answer :=
  live s (.next ((readByte offset s).2.result (.byte (readByte offset s).1)))

/-- BUS.WRITE (R186). -/
def execBusWrite (offset : Int) (v : Byte) (s : State) : Answer := live s (.next (bankWrite offset 8 v.toNat s))

end Sys2Proof.Machine
end

