-- ==== Sys2Proof/Machine/Protocol.lean ====
section
/-! DEFINITION. The ProtocolStateMachine operations (44_protocol_state_machine.md). -/

namespace Sys2Proof.Machine

/-- A byte in an unexpected state (R282, R304): reported, answered with 0. -/
def unexpectedByte (b : Byte) (s : State) : Byte × State := (0, s.report (.unexpectedState b))

/-- With single-byte framing the machine is Idle after one data or dummy byte (R286). -/
def afterByte (s : State) : State :=
  match s.par.framing with
  | .singleByte => s.setPsm .idle
  | .untilFrameEnd => s

/-- PSM.DATA in state Writing(t) (R280). -/
def dataByte (t : BitVec 5) (b : Byte) (s : State) : Byte × State :=
  (0, afterByte (bankWrite (t.toNat : Int) 8 b.toNat s))

/-- PSM.DUMMY in state Reading(t) (R281). -/
def dummyByte (t : BitVec 5) (s : State) : Byte × State :=
  ((readByte (t.toNat : Int) s).1, afterByte (readByte (t.toNat : Int) s).2)

/-- PSM.BYTE (R276). -/
def psmByte (b : Byte) (s : State) : Byte × State :=
  match s.psm.state with
  | .idle => (0, command (decodeCommand b) s)
  | .writing t => dataByte t b s
  | .reading t => dummyByte t s

/-- A byte operation's answer: its next state with the byte it returns. -/
def answerByte (r : Byte × State) : Answer := .next (r.2.result (.byte r.1))

/-- PSM.BYTE (R276). -/
def execPsmByte (b : Byte) (s : State) : Answer := answerByte (psmByte b s)

/-- CMD.RD (R279). -/
def execCmdRd (idx : BitVec 5) (s : State) : Answer := .next (command (.rd idx) s)

/-- CMD.WR (R278). -/
def execCmdWr (idx : BitVec 5) (s : State) : Answer := .next (command (.wr idx) s)

/-- PSM.DATA (R280); in another state than Writing the byte is unexpected (R282). -/
def execPsmData (b : Byte) (s : State) : Answer :=
  match s.psm.state with
  | .writing t => answerByte (dataByte t b s)
  | _ => answerByte (unexpectedByte b s)

/-- PSM.DUMMY (R281); in another state than Reading the byte is unexpected (R282). -/
def execPsmDummy (b : Byte) (s : State) : Answer :=
  match s.psm.state with
  | .reading t => answerByte (dummyByte t s)
  | _ => answerByte (unexpectedByte b s)

/-- PSM.FRAMEEND (R283). -/
def execPsmFrameEnd (s : State) : Answer := .next (frameEnd s)

/-- PSM.RESET (R284). -/
def execPsmReset (s : State) : Answer := .next (psmReset s)

end Sys2Proof.Machine
end

