-- ==== Sys2Proof/Machine/Framer.lean ====
section
/-! DEFINITION. The byte-stream framer operations (45_spi_framer.md). -/

namespace Sys2Proof.Machine

/-- FR.SELECT (R301). -/
def execFrSelect (s : State) : Answer := live s (.next (frameEnd (s.setCs true)))

/-- FR.XFER (R302); a byte outside a frame is unexpected (R304). -/
def execFrXfer (b : Byte) (s : State) : Answer :=
  live s (answerByte (if s.cs then psmByte b s else unexpectedByte b s))

/-- FR.DESELECT (R303). -/
def execFrDeselect (s : State) : Answer := live s (.next (frameEnd (s.setCs false)))

end Sys2Proof.Machine
end

