-- ==== Sys2Proof/WellFormed.lean ====
section
/-! DEFINITION. Which operands and which declarations are well formed: the operand ranges of R131, and the construction
checks of R35, R38, R47 and R226 (U7, U8 of 93_implementation_defined.md). -/

namespace Sys2Proof

/-- A device's answers are for the indices 1 to 15, now and after every change of the topology (R75, R353). -/
def Device.wf (d : Device) : Bool := (d.endpoints :: d.later).all fun answers => answers.all fun i => decide (1 ≤ i ∧ i ≤ 15)

/-- An endpoint's index is 1 to 15 (R75). -/
def Endpoint.wf (e : Endpoint) : Bool := decide (1 ≤ e.index ∧ e.index ≤ 15)

/-- Operand ranges (R131): an attach address is 0 to 127, an advance is not negative, a clock rate is positive. -/
def Instr.wf : Instr → Bool
  | .vcAdvance dt => decide (0 ≤ dt)
  | .pAttach a d => decide (a < 128) && d.wf
  | .pDetach a => decide (a < 128)
  | .vcObtain _ rate => decide (0 < rate)
  | .pSetup d => d.wf
  | .pBulkOut e => e.wf
  | .pBulkIn (some e) => e.wf
  | _ => true

/-- A hook's operands are in range: devices and endpoints answer for the indices 1 to 15 (R75). -/
def HookCall.wf : HookCall → Bool
  | .setup d | .attach _ d => d.wf
  | .bulkOut e | .writeData e _ | .bulkIn (some e) => e.wf
  | _ => true

/-- Every call of a hook is in range. -/
def Hook.wf : Hook → Bool
  | .skip => true
  | .call c => c.wf
  | .seq a b | .ite _ a b => a.wf && b.wf
  | .rep _ a => a.wf

/-- A field has width at least 1, lies inside the register (R35, R38), and has hooks whose operands are in range. -/
def Field.wf (W : Nat) (f : Field) : Bool :=
  decide (1 ≤ f.width ∧ f.offset + f.width ≤ W) && f.provider.all (fun p => p.body.wf) && f.writeEffect.all Hook.wf &&
    f.postWrite.all Hook.wf

/-- A register has a field, every field lies inside it, and the fields ascend without overlap (R34, R35, R38). -/
def Register.wf (W : Nat) (r : Register) : Bool :=
  !r.fields.isEmpty && r.fields.all (Field.wf W) &&
    decide (r.fields.Pairwise fun f g => f.offset + f.width ≤ g.offset)

/-- A bank declaration is well formed (R38): the width is positive, the offsets are unique, every register is well
formed, and no two declared fields are the same field. -/
def regmapWf (W : Nat) (m : List Register) : Bool :=
  decide (1 ≤ W) && m.all (Register.wf W) && decide (m.Pairwise fun r r' => r.index ≠ r'.index) &&
    decide ((m.flatMap fun r => r.fields.map (·.name)).Nodup)

/-- The construction check (R38, R47, R226): declaration, receive capacity and clock rate. A declaration that does not list a
field which the peripheral's own logic names is accepted (DESIGN CHOICE, log entry 19). -/
def constructionWf (p : Params) (rcvCap : Option Nat) (frameRate : Int) : Bool :=
  regmapWf p.width p.regmap && (match rcvCap with | none => true | some c => decide (1 ≤ c)) && decide (0 < frameRate)

end Sys2Proof
end

