-- ==== Sys2Proof/Machine/Reset.lean ====
section
/-! DEFINITION. Reset, disposal and construction of the peripheral (70_reset_and_hazards.md, R321). -/

namespace Sys2Proof.Machine

/-- P.RESET (R421), line by line. -/
def peripheralReset (s : State) : State :=
  let s1 := psmReset (bankReset s)
  let s2 := clearQueue .rcv (clearQueue .snd (clearQueue .sud s1))
  setLine false { clockStop s2 with pend := [] }

/-- P.RESET (R421). -/
def execPReset (s : State) : Answer := live s (.next (peripheralReset s))

/-- P.DISPOSE (R422): registers, queues and line keep their values, and no agent steps on the peripheral any more. -/
def execPDispose (s : State) : Answer := live s (.next { clockDispose s with pend := [], ended := true })

/-- Construction (R321): the state of R80 for any parameters, receive capacity and frame rate, refused where the
declaration, the capacity or the rate is ill formed (R38, U7, U8). It drives no output: the `emit LineSet(false)` in R80's row
for the line is taken to be P.RESET's alone, as R321 and D36 have it (DESIGN CHOICE, log entry 21). -/
def construct (p : Params) (rcvCap : Option Nat) (frameRate : Int) : Answer :=
  if frameRate ≤ 0 then .refused (.badRate frameRate)
  else if constructionWf p rcvCap frameRate then
    .next { State.reset with
      par := p
      bank := { val := resetFields p.regmap {}, busy := false }
      rcv := { bytes := [], cap := rcvCap }
      clk := newClock .frameTick frameRate.toNat }
  else .refused .illFormed

end Sys2Proof.Machine
end

