-- ==== Sys2Proof/Machine/VirtualClock.lean ====
section
/-! DEFINITION. The VirtualClock operations (42_virtualclock.md). -/

namespace Sys2Proof.Machine

/-- VC.OBTAIN (R226): the clock is returned stopped; a rate that is not positive is refused (U8). -/
def execVcObtain (callback : Callback) (rate : Int) (s : State) : Answer :=
  if rate ≤ 0 then .refused (.badRate rate)
  else .next ({ s with clk := newClock callback rate.toNat }.result (.clock (newClock callback rate.toNat)))

/-- VC.START (R228). -/
def execVcStart (s : State) : Answer := .next (clockStart s)

/-- VC.STOP (R229). -/
def execVcStop (s : State) : Answer := .next (clockStop s)

/-- VC.DISPOSE (R230). -/
def execVcDispose (s : State) : Answer := .next (clockDispose s)

/-- VC.TICK (R231). Where it is not enabled the event has no step and changes nothing (R15 (b), U11). -/
def execVcTick (s : State) : Answer := .next (if clockEnabled s then clockTick s else s)

/-- The advance of a time that is not negative (R233). A tick is a step of its own: the time that is left is put back as
the virtual-time source's next step, and other agents may step before it. -/
def advance (dt : Rat) (s : State) : State :=
  if !clockEnabled s then s
  else if s.clk.elapsed + dt < period s then { s with clk := { s.clk with elapsed := s.clk.elapsed + dt } }
  else
    let rest := dt - (period s - s.clk.elapsed)
    let t := clockTick s
    { t with inbox := .vcAdvance rest :: t.inbox }

/-- VC.ADVANCE (R233). -/
def execVcAdvance (dt : Rat) (s : State) : Answer :=
  if dt < 0 then .refused (.negativeTime dt) else .next (advance dt s)

end Sys2Proof.Machine
end

