-- ==== Sys2Proof/Machine/Dispatch.lean ====
section
/-! DEFINITION. One arm per operation of R131, in the order of the opcode table. -/

namespace Sys2Proof.Machine

/-- The meaning of every operation (R131). -/
def exec (i : Instr) (s : State) : Host.Outcome State Fault Refusal :=
  match i with
  | .cmdRd idx => Sys2Proof.Machine.execCmdRd idx s
  | .cmdWr idx => Sys2Proof.Machine.execCmdWr idx s
  | .xferSetup ep => Sys2Proof.Machine.execXferSetup ep s
  | .xferHs => Sys2Proof.Machine.execXferHs s
  | .xferOut ep => Sys2Proof.Machine.execXferOut ep s
  | .xferIn ep => Sys2Proof.Machine.execXferIn ep s
  | .sudDecode p => Sys2Proof.Machine.execSudDecode p s
  | .frSelect => Sys2Proof.Machine.execFrSelect s
  | .frXfer b => Sys2Proof.Machine.execFrXfer b s
  | .frDeselect => Sys2Proof.Machine.execFrDeselect s
  | .busRead offset => Sys2Proof.Machine.execBusRead offset s
  | .busWrite offset v => Sys2Proof.Machine.execBusWrite offset v s
  | .vcTick => Sys2Proof.Machine.execVcTick s
  | .vcAdvance dt => Sys2Proof.Machine.execVcAdvance dt s
  | .pAttach a d => Sys2Proof.Machine.execPAttach a d s
  | .pDetach a => Sys2Proof.Machine.execPDetach a s
  | .cbDataReady id context bytes => Sys2Proof.Machine.execCbDataReady id context bytes s
  | .cbSetupResp id bytes => Sys2Proof.Machine.execCbSetupResp id bytes s
  | .pReset => Sys2Proof.Machine.execPReset s
  | .pDispose => Sys2Proof.Machine.execPDispose s
  | .psmByte b => Sys2Proof.Machine.execPsmByte b s
  | .psmData b => Sys2Proof.Machine.execPsmData b s
  | .psmDummy b => Sys2Proof.Machine.execPsmDummy b s
  | .psmFrameEnd => Sys2Proof.Machine.execPsmFrameEnd s
  | .psmReset => Sys2Proof.Machine.execPsmReset s
  | .rbRead offset width => Sys2Proof.Machine.execRbRead offset width s
  | .rbWrite offset width value => Sys2Proof.Machine.execRbWrite offset width value s
  | .rbReset => Sys2Proof.Machine.execRbReset s
  | .iaRecompute => Sys2Proof.Machine.execIaRecompute s
  | .lineSet b => Sys2Proof.Machine.execLineSet b s
  | .vcObtain callback rate => Sys2Proof.Machine.execVcObtain callback rate s
  | .vcStart => Sys2Proof.Machine.execVcStart s
  | .vcStop => Sys2Proof.Machine.execVcStop s
  | .vcDispose => Sys2Proof.Machine.execVcDispose s
  | .fqEnq1 q b => Sys2Proof.Machine.execFqEnq1 q b s
  | .fqEnqN q bytes => Sys2Proof.Machine.execFqEnqN q bytes s
  | .fqDeq1 q => Sys2Proof.Machine.execFqDeq1 q s
  | .fqDeqN q n => Sys2Proof.Machine.execFqDeqN q n s
  | .fqDeqAll q => Sys2Proof.Machine.execFqDeqAll q s
  | .fqCount q => Sys2Proof.Machine.execFqCount q s
  | .fqClear q => Sys2Proof.Machine.execFqClear q s
  | .pFrameTick => Sys2Proof.Machine.execPFrameTick s
  | .pXfer v => Sys2Proof.Machine.execPXfer v s
  | .pSetup d => Sys2Proof.Machine.execPSetup d s
  | .pBulkOut e => Sys2Proof.Machine.execPBulkOut e s
  | .pBulkIn eo => Sys2Proof.Machine.execPBulkIn eo s

end Sys2Proof.Machine
end

