-- ==== Sys2Proof/Machine/Fetch.lean ====
section
/-! DEFINITION. Where the next operation comes from: the hardware fetches no instruction (R44); the agents take steps one
whole operation at a time in one total order (R13, R107), and `inbox` is that order, the next step first. Also what it takes
for an opcode-table word to be the next thing the hardware runs. -/

namespace Sys2Proof

/-- The operation of an agent step (R17). -/
def Stimulus.toInstr : Stimulus → Instr
  | .frSelect => .frSelect
  | .frXfer b => .frXfer b
  | .frDeselect => .frDeselect
  | .busRead offset => .busRead offset
  | .busWrite offset v => .busWrite offset v
  | .vcTick => .vcTick
  | .vcAdvance dt => .vcAdvance dt
  | .pAttach a d => .pAttach a d
  | .pDetach a => .pDetach a
  | .cbDataReady id context bytes => .cbDataReady id context bytes
  | .cbSetupResp id bytes => .cbSetupResp id bytes
  | .pReset => .pReset
  | .pDispose => .pDispose

/-- The agent that takes a step (R17). -/
def Stimulus.agent : Stimulus → Agent
  | .frSelect | .frXfer _ | .frDeselect | .busRead _ | .busWrite _ _ => .busMaster
  | .vcTick | .vcAdvance _ => .virtualTime
  | .pAttach _ _ | .pDetach _ | .cbDataReady _ _ _ | .cbSetupResp _ _ => .downstream
  | .pReset | .pDispose => .host

namespace Machine

/-- The next agent step and the state without it, if an agent steps at all. -/
def fetch (s : State) : Option (Instr × State) :=
  match s.inbox with
  | [] => none
  | a :: rest => some (a.toInstr, { s with inbox := rest })

/-- An agent steps before all that is scheduled: any agent may step between two steps of another (R17). -/
def State.present (s : State) (a : Stimulus) : State := { s with inbox := a :: s.inbox }

/-- A live peripheral with a frame selected and the machine Idle, whose next byte is the command byte `w`. -/
def placeCommand (w : Nat) (s : State) : State :=
  { s with cs := true, psm := { s.psm with state := .idle }, ended := false }.present
    (.frXfer (BitVec.ofNat 8 w))

/-- The topology with a device at an address. -/
def withDevice (a : Nat) (m : List (Nat × Device)) : List (Nat × Device) :=
  if (keyGet a m).isSome then m else keyPut a { ident := 0, endpoints := [] } m

/-- A live peripheral with the packet `w` in the setup FIFO and a device at the addressed address, whose next step is the
setup trigger (R330). -/
def placeSetup (w : Nat) (s : State) : State :=
  { s with
    sud := { s.sud with bytes := bytesOfWord Config.setupLen w }
    dev := withDevice (s.fld .perAddr) s.dev
    ended := false }.present (.busWrite 30 0x10)

/-- The state in which the next step runs the opcode-table word `w` of `nbits` bits; a width that no encoded row has
changes nothing. -/
def placeWord (nbits w : Nat) (s : State) : State :=
  match nbits with
  | 8 => placeCommand w s
  | 64 => placeSetup w s
  | _ => s

end Machine

end Sys2Proof
end

