-- ==== Sys2Proof/Machine/Step.lean ====
section
/-! DEFINITION. One step of the machine: the next agent step, taken whole (R13). -/

namespace Sys2Proof.Machine

/-- One step (R13, R107). When no agent steps the hardware waits unchanged. -/
def step (s : State) : Host.Outcome State Fault Refusal :=
  match fetch s with
  | none => .next s
  | some (i, t) => exec i t

/-- The state in which the very next step runs the opcode-table word (log entry 4). -/
def State.withFetchWord (s : State) (nbits w : Nat) : State := placeWord nbits w s

end Sys2Proof.Machine
end

