-- ==== Sys2Proof/Safety.lean ====
section
/-! DEFINITION. What counts as a good state, in the terms the statements use: the exemplar's bank at rest, fields within
their widths, the line at the aggregator's formula, queues within capacity, subscriptions, topology and clock in order.
Also the aggregator's formula and the register images written out as the spec writes them. -/

namespace Sys2Proof.Machine

/-- The formula of R154 and R211, written out over the thirteen fields it names. -/
def lineFormula (b : FieldVals) : Bool :=
  (b.ie != 0) &&
    ((b.oscOkIrq != 0 && b.oscOkIe != 0) || (b.rcvDavIrq != 0 && b.rcvDavIe != 0) ||
      (b.sndBavIrq != 0 && b.sndBavIe != 0) || (b.condetIrq != 0 && b.condetIe != 0) ||
      (b.frameIrq != 0 && b.frameIe != 0) || (b.hxfrdnIrq != 0 && b.hxfrdnIe != 0))

/-- The state with other field values. -/
def State.withVal (s : State) (b : FieldVals) : State := { s with bank := { s.bank with val := b } }

/-- The state after the line has been set `n` times to the formula of its fields (R211, R212). -/
def State.driven (s : State) (n : Nat) : State :=
  { s with irq := lineFormula s.bank.val, out := s.out ++ List.replicate n (.lineSet (lineFormula s.bank.val)) }

/-- The image of an exemplar register that has no provider (R54, R142): each field at its place, reserved bits 0, and
0 for a write-only register. -/
def registerImage (b : FieldVals) (offset : Int) : Nat :=
  if offset = 7 then b.sndBc
  else if offset = 13 then b.oscOkIrq
  else if offset = 14 then b.oscOkIe
  else if offset = 15 then 32 * b.chipRes
  else if offset = 16 then b.ie
  else if offset = 25 then 4 * b.rcvDavIrq + 8 * b.sndBavIrq + 32 * b.condetIrq + 64 * b.frameIrq + 128 * b.hxfrdnIrq
  else if offset = 26 then 4 * b.rcvDavIe + 8 * b.sndBavIe + 32 * b.condetIe + 64 * b.frameIe + 128 * b.hxfrdnIe
  else if offset = 27 then 8 * b.sofKaEnab
  else if offset = 28 then b.perAddr
  else if offset = 30 then b.hxfr
  else if offset = 31 then 64 * b.busState
  else 0

/-- The 14 indices of the exemplar that have a register (R54). -/
def exemplarIndices : List Int := [1, 2, 4, 7, 13, 14, 15, 16, 25, 26, 27, 28, 30, 31]

/-- The bank is the exemplar's: 8 bits wide, with the map of R54. Framing, attach status and the done-after-bulk-OUT
choice stay free (R9). -/
def State.exemplar (s : State) : Prop := s.par.width = 8 ∧ s.par.regmap = exemplarMap

/-- The exemplar's bank between accesses: the guard is clear (R41). -/
def State.ready (s : State) : Prop := s.exemplar ∧ s.bank.busy = false

/-- Every field holds a value of its width (R31). -/
def State.bounded (s : State) : Prop := ∀ f : FieldId, s.fld f < 2 ^ f.width

/-- The agent step is a bus-side write of `v` to the register index `n`: a byte in a frame whose machine is in Writing, or a
BUS.WRITE (R186, R280, R302). -/
def BusWrites (a : Stimulus) (s : State) (n : Int) (v : Byte) : Prop :=
  (a = .frXfer v ∧ s.cs = true ∧ ∃ t : BitVec 5, s.psm.state = .writing t ∧ n = t.toNat) ∨ a = .busWrite n v

/-- The agent step is a bus-side write of the byte `v` to HXFR with the device `d` addressed: the trigger of the request
that `v` decodes to (R67, R325). -/
def Triggers (a : Stimulus) (s : State) (d : Option Device) (i : Instr) : Prop :=
  ∃ v, BusWrites a s 30 v ∧ s.device s.bank.val.perAddr = d ∧ decode .xfr8 [v] = .ok (i, [])

/-- What an agent of another kind cannot have influenced: the state without the log, the outputs and the last decoded
target, which no rule reads (R45, R53). -/
def State.visible (s : State) : State := { s with log := [], out := [], psm := { s.psm with last := none } }

/-- The clock is in order (R49, R230): its rate is positive, its phase is inside a period and is 0 when it is stopped, and
it does not run once disposed. -/
structure ClockInv (c : Clock) : Prop where
  rate     : 0 < c.rate
  phase    : 0 ≤ c.elapsed ∧ c.elapsed < 1 / (c.rate : Rat)
  stopped  : c.running = false → c.elapsed = 0
  disposed : c.disposed = true → c.running = false

/-- The invariant of the exemplar peripheral. -/
structure Inv (s : State) : Prop where
  /-- the declaration is the exemplar's and the guard is clear between operations (R41, R54) -/
  ready     : s.ready
  /-- field values are within their widths (R31) -/
  bounded   : s.bounded
  /-- the line is at the formula (R216) -/
  line      : s.irq = lineFormula s.bank.val
  /-- the queues have their capacities and are within them (R47, R48, R251) -/
  sudCap    : s.sud.cap = some 8 ∧ s.sud.bytes.length ≤ 8
  sndCap    : s.snd.cap = some 64 ∧ s.snd.bytes.length ≤ 64
  rcvCap    : ∀ c, s.rcv.cap = some c → s.rcv.bytes.length ≤ c
  /-- pending identifiers rise and have been issued (R51, R158) -/
  pendOrder : s.pend.Pairwise fun p q => p.id < q.id
  pendOld   : ∀ p ∈ s.pend, p.id < s.nextId
  /-- no subscription is pending on a disposed peripheral (R422) -/
  pendLive  : s.ended = true → s.pend = []
  /-- the clock is disposed with the peripheral, and by nothing else (R230, R422) -/
  disposal  : s.clk.disposed = s.ended
  /-- the keyed stores are in canonical form, and devices stand at addresses 0 to 127 (R52) -/
  memory    : Memory.wf s = true
  addresses : ∀ e ∈ s.dev, e.1 < 128
  /-- the clock is in order, and runs exactly when its enable bit is set, until it is disposed (R49, R65) -/
  clock     : ClockInv s.clk
  enabled   : s.clk.disposed = false → (s.clk.running = true ↔ s.bank.val.sofKaEnab = 1)

end Sys2Proof.Machine

namespace Sys2Proof

/-- The call touches neither the select level nor the protocol machine, so a frame goes on after it. -/
def HookCall.keepsFrame : HookCall → Bool
  | .command _ | .frameEnd | .psmReset | .select _ => false
  | _ => true

/-- Every call of the hook lets a frame go on. -/
def Hook.keepsFrame : Hook → Bool
  | .skip => true
  | .call c => c.keepsFrame
  | .seq a b | .ite _ a b => a.keepsFrame && b.keepsFrame
  | .rep _ a => a.keepsFrame

/-- Every hook of a declaration lets a frame go on; the exemplar's do. R33 allows a declaration whose hooks do not. -/
def keepsFrames (m : List Register) : Bool :=
  m.all fun r => r.fields.all fun f =>
    f.provider.all (fun p => p.body.keepsFrame) && f.writeEffect.all Hook.keepsFrame && f.postWrite.all Hook.keepsFrame

end Sys2Proof

namespace Sys2Proof.Machine

/-- The operations taken one after another, stopping at the first that is refused. -/
def execAll : List Instr → State → Answer
  | [], s => .next s
  | i :: is, s =>
    match exec i s with
    | .next t => execAll is t
    | .fault r => .fault r
    | .refused r => .refused r

end Sys2Proof.Machine
end

