-- ==== Sys2Proof/Certificates/Slice0/Obligations.lean ====
section
/-! DEFINITION. The statements about the machine, family by family. Each says in its docstring which rules it formalises. -/

open Sys2Proof Sys2Proof.Machine

/-! ## Encodings -/

/-- Decoding the bytes of an encoded instruction gives the instruction and leaves the bytes after it (R130 to R142). -/
def Obligations.DecodeOfEncodedIsTheInstruction : Prop :=
  ∀ (i : Instr) (bs rest : List Byte), encode i = some bs → decode i.format (bs ++ rest) = .ok (i, rest)

/-- Every byte is a command: bit 1 gives the direction, the byte shifted right by 3 the target, and bits 0 and 2 take no
part. The transfer-control byte selects by the four masks, which exclude one another and cover all bytes (R136, R138,
R140). -/
def Obligations.EveryCommandAndTransferByteDecodes : Prop :=
  (∀ b : Byte,
    decode .cmd8 [b] = .ok (if b &&& 0x02 = 0x02 then .cmdWr (BitVec.ofNat 5 (b.toNat >>> 3))
      else .cmdRd (BitVec.ofNat 5 (b.toNat >>> 3)), []) ∧
    ∀ c : Byte, b &&& 0xFA = c &&& 0xFA → decode .cmd8 [c] = decode .cmd8 [b]) ∧
  ∀ v : Byte,
    (v &&& 0x10 = 0x10 → decode .xfr8 [v] = .ok (.xferSetup (BitVec.ofNat 4 v.toNat), [])) ∧
    (v &&& 0x90 = 0x80 → decode .xfr8 [v] = .ok (.xferHs, [])) ∧
    (v &&& 0xB0 = 0x20 → decode .xfr8 [v] = .ok (.xferOut (BitVec.ofNat 4 v.toNat), [])) ∧
    (v &&& 0xB0 = 0x00 → decode .xfr8 [v] = .ok (.xferIn (BitVec.ofNat 4 v.toNat), [])) ∧
    ((if v &&& 0x10 = 0x10 then 1 else 0) + (if v &&& 0x90 = 0x80 then 1 else 0) +
      (if v &&& 0xB0 = 0x20 then 1 else 0) + (if v &&& 0xB0 = 0x00 then 1 else 0) = 1)

/-- SUD.DECODE fails on fewer than eight bytes and otherwise assembles the five fields, little-endian, from the first
eight; it changes nothing (R331). -/
def Obligations.SetupPacketAssembly : Prop :=
  ∀ (p : List Byte) (s : State),
    exec (.sudDecode p) s = .next { s with out := s.out ++ [.result (.packet (
      if p.length < 8 then none
      else some
        { bmRequestType := p.getD 0 0
          bRequest := p.getD 1 0
          wValue := BitVec.ofNat 16 ((p.getD 2 0).toNat + 256 * (p.getD 3 0).toNat)
          wIndex := BitVec.ofNat 16 ((p.getD 4 0).toNat + 256 * (p.getD 5 0).toNat)
          wLength := BitVec.ofNat 16 ((p.getD 6 0).toNat + 256 * (p.getD 7 0).toNat) }))] }

/-- Packets and sequences of eight bytes correspond one to one (R141). -/
def Obligations.SetupPacketRoundTrip : Prop :=
  (∀ p : Packet, (encodeSetup p).length = 8 ∧ decodeSetup (encodeSetup p) = some p) ∧
  ∀ bs : List Byte, bs.length = 8 → ∃ p, decodeSetup bs = some p ∧ encodeSetup p = bs

/-- A few words written out from the encoding tables decode to what they stand for (R137, R140, R141). -/
def Obligations.WordsOfTheEncodingTables : Prop :=
  decode .cmd8 [0x68] = .ok (.cmdRd 13, []) ∧ decode .cmd8 [0x7A] = .ok (.cmdWr 15, []) ∧
  decode .xfr8 [0x11] = .ok (.xferSetup 1, []) ∧ decode .xfr8 [0xA0] = .ok (.xferHs, []) ∧
  decode .xfr8 [0x22] = .ok (.xferOut 2, []) ∧ decode .xfr8 [0x4F] = .ok (.xferIn 15, []) ∧
  decodeSetup [0x21, 0x09, 0x34, 0x12, 0x78, 0x56, 0xFF, 0xFF] = some ⟨0x21, 0x09, 0x1234, 0x5678, 0xFFFF⟩

/-! ## Steps -/

/-- A step takes the next agent step of the schedule whole, and with none scheduled the hardware waits unchanged (R13,
R107; the schedule is the model's, log entry 4). -/
def Obligations.StepTakesTheNextAgentStep : Prop :=
  (∀ (s : State) (a : Stimulus) (rest : List Stimulus), s.inbox = a :: rest →
    step s = exec a.toInstr { s with inbox := rest }) ∧
  ∀ s : State, s.inbox = [] → step s = .next s

/-- The first byte of a frame is decoded as a command byte and that instruction is run; the byte returned is 0 (R276,
R302). -/
def Obligations.FirstByteOfAFrameRunsItsInstruction : Prop :=
  ∀ (s : State) (b : Byte) (rest : List Stimulus) (i : Instr),
    s.inbox = .frXfer b :: rest → s.ended = false → s.cs = true → s.psm.state = .idle →
    decode .cmd8 [b] = .ok (i, []) →
    ∃ t : State, exec i { s with inbox := rest } = .next t ∧ step s = .next (t.result (.byte 0))

/-! ## Framer and protocol machine -/

/-- Select and deselect set the level and return the machine to Idle; frame end returns it to Idle; the last target and
all else stay. The machine's reset also clears the last target (R283, R284, R301, R303). -/
def Obligations.FrameBoundariesReturnToIdle : Prop :=
  ∀ s : State,
    (s.ended = false →
      exec .frSelect s = .next { s with cs := true, psm := { s.psm with state := .idle } } ∧
      exec .frDeselect s = .next { s with cs := false, psm := { s.psm with state := .idle } }) ∧
    exec .psmFrameEnd s = .next { s with psm := { s.psm with state := .idle } } ∧
    exec .psmReset s = .next { s with psm := { state := .idle, last := none } }

/-- A byte in a frame is handled by the protocol machine; a byte outside a frame is reported and answered with 0, and
changes nothing else (R302, R304). -/
def Obligations.ByteInsideAndOutsideAFrame : Prop :=
  ∀ (s : State) (b : Byte), s.ended = false →
    (s.cs = true → ∃ t : State, exec (.psmByte b) s = .next t ∧ exec (.frXfer b) s = .next t) ∧
    (s.cs = false → exec (.frXfer b) s =
      .next { s with log := s.log ++ [.unexpectedState b], out := s.out ++ [.result (.byte 0)] })

/-- A command byte records its target and enters the state of its direction; it accesses no register and returns 0
(R277, R278, R279). -/
def Obligations.CommandByteEntersItsState : Prop :=
  (∀ (s : State) (t : BitVec 5),
    exec (.cmdWr t) s = .next { s with psm := { state := .writing t, last := some t } } ∧
    exec (.cmdRd t) s = .next { s with psm := { state := .reading t, last := some t } }) ∧
  ∀ (s : State) (b : Byte), s.psm.state = .idle →
    exec (.psmByte b) s = .next { s with
      psm := { state := if b &&& 0x02 = 0x02 then .writing (BitVec.ofNat 5 (b.toNat / 8))
                 else .reading (BitVec.ofNat 5 (b.toNat / 8))
               last := some (BitVec.ofNat 5 (b.toNat / 8)) }
      out := s.out ++ [.result (.byte 0)] }

/-- A byte in state Writing(t) is one register write at width 8; the answer is 0, and the state stays, or is Idle with
single-byte framing (R280, R286). -/
def Obligations.DataByteWritesTheTarget : Prop :=
  ∀ (s : State) (t : BitVec 5) (b : Byte), s.psm.state = .writing t →
    ∃ u : State, exec (.rbWrite t.toNat 8 b.toNat) s = .next u ∧
      (s.par.framing = .untilFrameEnd →
        exec (.psmData b) s = .next (u.result (.byte 0)) ∧ exec (.psmByte b) s = .next (u.result (.byte 0))) ∧
      (s.par.framing = .singleByte →
        exec (.psmData b) s = .next (State.result { u with psm := { u.psm with state := .idle } } (.byte 0)) ∧
        exec (.psmByte b) s = .next (State.result { u with psm := { u.psm with state := .idle } } (.byte 0)))

/-- A byte in state Reading(t), whatever its value, is one register read at width 8, whose value is the answer; the
state stays, or is Idle with single-byte framing (R281, R286). -/
def Obligations.DummyByteReadsTheTarget : Prop :=
  ∀ (s : State) (t : BitVec 5) (b : Byte), s.psm.state = .reading t →
    ∃ (u : State) (v : Nat), exec (.rbRead t.toNat 8) s = .next (u.result (.value v)) ∧
      (s.par.framing = .untilFrameEnd →
        exec (.psmDummy b) s = .next (u.result (.byte (BitVec.ofNat 8 v))) ∧
        exec (.psmByte b) s = .next (u.result (.byte (BitVec.ofNat 8 v)))) ∧
      (s.par.framing = .singleByte →
        exec (.psmDummy b) s =
          .next (State.result { u with psm := { u.psm with state := .idle } } (.byte (BitVec.ofNat 8 v))) ∧
        exec (.psmByte b) s =
          .next (State.result { u with psm := { u.psm with state := .idle } } (.byte (BitVec.ofNat 8 v))))

/-- A write frame performs its data bytes as register writes to the one target, in order, and nothing else; every byte
returns 0, and the machine ends Idle with that target. This is for every declaration whose hooks leave the select
level and the protocol machine alone, the exemplar's among them. The spec marks R305, which says so, as its own inference; this is R280
and R301 to R303 at work. -/
def Obligations.WriteFrameIsItsRegisterWrites : Prop :=
  ∀ (s : State) (c : Byte) (ds : List Byte), keepsFrames s.par.regmap = true → s.ended = false →
    s.par.framing = .untilFrameEnd → c &&& 0x02 = 0x02 →
    ∃ u : State,
      ds.foldl (fun a d => match a with
          | Host.Outcome.next x => match exec (.rbWrite (c.toNat / 8) 8 d.toNat) x with
            | .next y => .next (y.result (.byte 0))
            | o => o
          | o => o)
        (Host.Outcome.next (State.result
          { s with cs := true, psm := { state := .writing (BitVec.ofNat 5 (c.toNat / 8))
                                        last := some (BitVec.ofNat 5 (c.toNat / 8)) } } (.byte 0))) = .next u ∧
      execAll (.frSelect :: .frXfer c :: ds.map .frXfer ++ [.frDeselect]) s =
        .next { u with cs := false, psm := { state := .idle, last := some (BitVec.ofNat 5 (c.toNat / 8)) } }

/-! ## FIFO queues -/

/-- An enqueue appends and keeps the newest bytes up to the capacity, with one report of how many were dropped, and
changes nothing else; a single byte is a range of one (R253, R254). -/
def Obligations.EnqueueDropsTheOldest : Prop :=
  ∀ (s : State) (q : QueueId) (bs : List Byte) (b : Byte),
    ((s.queue q).cap = none → exec (.fqEnqN q bs) s = .next (s.setBytes q ((s.queue q).bytes ++ bs))) ∧
    (∀ c, (s.queue q).cap = some c → ((s.queue q).bytes ++ bs).length ≤ c →
      exec (.fqEnqN q bs) s = .next (s.setBytes q ((s.queue q).bytes ++ bs))) ∧
    (∀ c, (s.queue q).cap = some c → c < ((s.queue q).bytes ++ bs).length →
      exec (.fqEnqN q bs) s = .next
        ((s.setBytes q (((s.queue q).bytes ++ bs).drop (((s.queue q).bytes ++ bs).length - c))).report
          (.fifoOverflow q (((s.queue q).bytes ++ bs).length - c)))) ∧
    ∃ t : State, exec (.fqEnqN q [b]) s = .next t ∧ exec (.fqEnq1 q b) s = .next t

/-- Dequeue-one takes the oldest byte; from an empty queue it answers 0 with a report (R257). -/
def Obligations.DequeueOneTakesTheOldest : Prop :=
  ∀ (s : State) (q : QueueId),
    (∀ b rest, (s.queue q).bytes = b :: rest →
      exec (.fqDeq1 q) s = .next ((s.setBytes q rest).result (.byte b))) ∧
    ((s.queue q).bytes = [] →
      exec (.fqDeq1 q) s = .next { s with log := s.log ++ [.fifoUnderflow q], out := s.out ++ [.result (.byte 0)] })

/-- Range and whole dequeue, count and clear (R258, R259, R260, R261). -/
def Obligations.RangeDequeueCountAndClear : Prop :=
  ∀ (s : State) (q : QueueId) (n : Nat),
    exec (.fqDeqN q n) s =
      .next ((s.setBytes q ((s.queue q).bytes.drop n)).result (.bytes ((s.queue q).bytes.take n))) ∧
    exec (.fqDeqAll q) s = .next ((s.setBytes q []).result (.bytes (s.queue q).bytes)) ∧
    exec (.fqCount q) s = .next (s.result (.count (s.queue q).bytes.length)) ∧
    exec (.fqClear q) s = .next (s.setBytes q [])

/-- Two range enqueues leave the content of one of both sequences, and drop as many bytes in total
(what R262 infers from R254). -/
def Obligations.TwoEnqueuesAreOne : Prop :=
  ∀ (s t u w : State) (q : QueueId) (xs ys : List Byte),
    exec (.fqEnqN q xs) s = .next t → exec (.fqEnqN q ys) t = .next u → exec (.fqEnqN q (xs ++ ys)) s = .next w →
    u.queue q = w.queue q ∧
    ∀ c, (s.queue q).cap = some c →
      ((s.queue q).bytes.length + xs.length - c) + ((t.queue q).bytes.length + ys.length - c) =
        (s.queue q).bytes.length + (xs ++ ys).length - c

/-- Every operation leaves every queue within its capacity, and no operation changes a capacity (the invariant of
R47, which R251 infers). -/
def Obligations.QueuesStayWithinCapacity : Prop :=
  ∀ (i : Instr) (s t : State), exec i s = .next t →
    (∀ q c, (s.queue q).cap = some c → (s.queue q).bytes.length ≤ c) →
    ∀ q, (t.queue q).cap = (s.queue q).cap ∧ ∀ c, (t.queue q).cap = some c → (t.queue q).bytes.length ≤ c

/-! ## Interrupts -/

/-- The recompute drives the line to the aggregator's formula, and a line set drives it to its operand; nothing else
changes (R211, R212). -/
def Obligations.RecomputeDrivesTheFormula : Prop :=
  ∀ (s : State) (b : Bool),
    exec .iaRecompute s =
      .next { s with irq := lineFormula s.bank.val, out := s.out ++ [.lineSet (lineFormula s.bank.val)] } ∧
    exec (.lineSet b) s = .next { s with irq := b, out := s.out ++ [.lineSet b] }

/-- After every step the line is at the formula, if it was before: from any state of the exemplar, whatever the agents
do. The spec marks R213 and R216, which say so, as its own inferences. -/
def Obligations.LineIsAtTheFormulaAfterEveryStep : Prop :=
  ∀ s t : State, s.exemplar → s.irq = lineFormula s.bank.val → step s = .next t → t.irq = lineFormula t.bank.val

/-- Each request flag is set by its own events alone: a clear flag that an agent step sets was set by a tick, by a change
of the topology, by a delivery that is not empty, by the fall of the chip-reset bit, by a bulk OUT, or by one of the
completions that R350 lists (what R71, R350 and R380 say, for the exemplar). -/
def Obligations.RequestFlagsAreSetByTheirEventsAlone : Prop :=
  ∀ (a : Stimulus) (s t : State), s.exemplar → exec a.toInstr s = .next t →
    (s.fld .frameIrq = 0 → t.fld .frameIrq ≠ 0 → s.clk.running = true ∧ s.clk.disposed = false ∧
      (a = .vcTick ∨ ∃ dt, a = .vcAdvance dt ∧ 1 / (s.clk.rate : Rat) ≤ s.clk.elapsed + dt)) ∧
    (s.fld .condetIrq = 0 → t.fld .condetIrq ≠ 0 →
      (∃ x d, a = .pAttach x d ∧ s.device x = none) ∨ ∃ x, a = .pDetach x ∧ s.device x ≠ none) ∧
    (s.fld .rcvDavIrq = 0 → t.fld .rcvDavIrq ≠ 0 →
      (∃ n c b bs, a = .cbDataReady n c (b :: bs) ∧ ⟨n, .dataReady⟩ ∈ s.pend) ∨
      ∃ n b bs, a = .cbSetupResp n (b :: bs) ∧ ⟨n, .setupResp⟩ ∈ s.pend) ∧
    (s.fld .oscOkIrq = 0 → t.fld .oscOkIrq ≠ 0 →
      s.bank.val.chipRes = 1 ∧ ∃ v, BusWrites a s 15 v ∧ v &&& 0x20 = 0) ∧
    (s.fld .sndBavIrq = 0 → t.fld .sndBavIrq ≠ 0 →
      ∃ d ep, Triggers a s (some d) (.xferOut ep) ∧ ep ≠ 0 ∧ ep.toNat ∈ d.endpoints) ∧
    (s.fld .hxfrdnIrq = 0 → t.fld .hxfrdnIrq ≠ 0 →
      (∃ n c bs, a = .cbDataReady n c bs ∧ ⟨n, .dataReady⟩ ∈ s.pend) ∨
      (∃ n bs, a = .cbSetupResp n bs ∧ ⟨n, .setupResp⟩ ∈ s.pend) ∨
      (∃ i, Triggers a s none i) ∨
      (∃ d, Triggers a s (some d) .xferHs) ∨
      (∃ d ep, Triggers a s (some d) (.xferIn ep) ∧ (ep = 0 ∨ ep.toNat ∉ d.endpoints)) ∨
      ∃ d ep, Triggers a s (some d) (.xferOut ep) ∧
        (ep = 0 ∨ ep.toNat ∉ d.endpoints ∨ s.par.bulkOutSetsDone = true))

/-- No event is lost to an acknowledge: HIRQ is read, a tick falls in, and the value read is written back; the flags
read as 1 are cleared, and a frame flag that was 0 when read stays set. The spec marks R110 and R394, which say so, as
its own inferences. -/
def Obligations.WriteBackAcknowledgesOnlyWhatWasRead : Prop :=
  ∀ (s s1 s2 : State) (v : Byte), s.ready → s.bounded → s.ended = false → s.clk.disposed = false →
    s.clk.running = true →
    v.toNat = registerImage s.bank.val 25 →
    exec (.busRead 25) s = .next s1 → exec .vcTick s1 = .next s2 →
    s1.out = s.out ++ [.result (.byte v)] ∧
    ∃ s3, exec (.busWrite 25 v) s2 = .next s3 ∧
      s3.fld .frameIrq = (if s.fld .frameIrq = 0 then 1 else 0) ∧
      s3.fld .rcvDavIrq = 0 ∧ s3.fld .sndBavIrq = 0 ∧ s3.fld .condetIrq = 0 ∧ s3.fld .hxfrdnIrq = 0

/-! ## Virtual clock -/

/-- Start, stop and dispose; a clock is obtained stopped, with its callback and rate, and a rate that is not positive is
refused (R226, R228, R229, R230; taken by itself VC.OBTAIN replaces the clock, log entry 15). -/
def Obligations.ClockObtainStartStopDispose : Prop :=
  ∀ (s : State) (cb : Callback) (n : Nat) (r : Int),
    exec .vcStart s = .next (if s.clk.disposed = true ∨ s.clk.running = true then s
      else { s with clk := { s.clk with running := true, elapsed := 0 } }) ∧
    exec .vcStop s = .next { s with clk := { s.clk with running := false, elapsed := 0 } } ∧
    exec .vcDispose s = .next { s with clk := { s.clk with running := false, disposed := true, elapsed := 0 } } ∧
    (0 < n → exec (.vcObtain cb n) s = .next { s with
      clk := ⟨cb, n, false, false, 0⟩, out := s.out ++ [.result (.clock ⟨cb, n, false, false, 0⟩)] }) ∧
    (r ≤ 0 → exec (.vcObtain cb r) s = .refused (.badRate r))

/-- A tick of a running clock that is not disposed runs the frame tick, which sets the frame flag and recomputes; it
touches no queue, no protocol state, no subscription (R231, R324). -/
def Obligations.TickSetsTheFrameFlag : Prop :=
  ∀ s : State,
    exec .pFrameTick s = .next ((s.withVal { s.bank.val with frameIrq := 1 }).driven 1) ∧
    (s.clk.running = true → s.clk.disposed = false → exec .vcTick s =
      .next ((State.withVal { s with clk := { s.clk with elapsed := 0 } } { s.bank.val with frameIrq := 1 }).driven 1))

/-- One part of an advance: time passes over a stopped clock; a shorter time than is left to the tick adds to the
phase; at or past the tick the tick is a step and the rest of the time is the virtual-time source's next step (R233;
that the rest stands first in the schedule is log entry 9). -/
def Obligations.AdvanceTakesOneTickAtATime : Prop :=
  ∀ (s : State) (dt : Rat), 0 ≤ dt →
    (s.clk.running = false ∨ s.clk.disposed = true → exec (.vcAdvance dt) s = .next s) ∧
    (s.clk.running = true → s.clk.disposed = false →
      (s.clk.elapsed + dt < 1 / (s.clk.rate : Rat) →
        exec (.vcAdvance dt) s = .next { s with clk := { s.clk with elapsed := s.clk.elapsed + dt } }) ∧
      (1 / (s.clk.rate : Rat) ≤ s.clk.elapsed + dt →
        ∃ t : State, exec .vcTick s = .next t ∧ exec (.vcAdvance dt) s =
          .next { t with inbox := .vcAdvance (dt - (1 / (s.clk.rate : Rat) - s.clk.elapsed)) :: s.inbox }))

/-- An advance that no other agent interrupts fires the floor of `(elapsed + dt) / T` ticks and leaves the remainder of
the period (R157, R233): that many recomputes are made, one for each tick, and the phase is what is left over (with the
schedule of log entry 9). -/
def Obligations.UninterruptedAdvanceFiresFloorTicks : Prop :=
  ∀ (s : State) (dt : Rat), 0 ≤ dt → ClockInv s.clk → s.clk.running = true → s.inbox = [.vcAdvance dt] →
    ∃ t : State,
      Host.Core.run Sys2Proof.core (⌊(s.clk.elapsed + dt) * s.clk.rate⌋₊ + 1) s = .next t ∧
      t.inbox = [] ∧
      t.clk = { s.clk with
        elapsed := (s.clk.elapsed + dt) - (⌊(s.clk.elapsed + dt) * s.clk.rate⌋₊ : Rat) / (s.clk.rate : Rat) } ∧
      t.out.length = s.out.length + ⌊(s.clk.elapsed + dt) * s.clk.rate⌋₊ ∧
      t.psm = s.psm ∧ t.cs = s.cs ∧ t.sud = s.sud ∧ t.snd = s.snd ∧ t.rcv = s.rcv ∧ t.pend = s.pend ∧ t.dev = s.dev ∧
      t.bank.val =
        (if ⌊(s.clk.elapsed + dt) * s.clk.rate⌋₊ = 0 then s.bank.val else { s.bank.val with frameIrq := 1 })

/-! ## Register bank -/

/-- The fixed order of checks of a bank access: guard, then width, then unmapped; each answers 0 or does nothing and
makes its report (R171, R174, R178). -/
def Obligations.AccessChecksInOrder : Prop :=
  ∀ (s : State) (offset : Int) (width value : Nat),
    (s.bank.busy = true →
      exec (.rbRead offset width) s = .next ((s.report (.reentrant offset)).result (.value 0)) ∧
      exec (.rbWrite offset width value) s = .next (s.report (.reentrant offset))) ∧
    (s.bank.busy = false → width ≠ s.par.width →
      exec (.rbRead offset width) s = .next ((s.report (.badWidth offset width)).result (.value 0)) ∧
      exec (.rbWrite offset width value) s = .next (s.report (.badWidth offset width))) ∧
    (s.bank.busy = false → width = s.par.width → (∀ r ∈ s.par.regmap, r.index ≠ offset) →
      exec (.rbRead offset width) s = .next ((s.report (.unmappedRead offset)).result (.value 0)) ∧
      exec (.rbWrite offset width value) s = .next (s.report (.unmappedWrite offset value)))

/-- The bus-facing accesses are the bank's at width 8, as agent steps of their own; they do not go through the protocol
machine, and leave it and the select level as they are unless a hook of the declaration touches them; none of the
exemplar's does (R185, R186; that R33 lets a declared hook touch them is log entry 11). -/
def Obligations.BusAccessIsABankAccess : Prop :=
  ∀ (s : State) (offset : Int) (v : Byte), s.ended = false →
    (∃ (u : State) (n : Nat), exec (.rbRead offset 8) s = .next (u.result (.value n)) ∧
      exec (.busRead offset) s = .next (u.result (.byte (BitVec.ofNat 8 n))) ∧
      (keepsFrames s.par.regmap = true → u.psm = s.psm ∧ u.cs = s.cs)) ∧
    (∃ u : State, exec (.rbWrite offset 8 v.toNat) s = .next u ∧ exec (.busWrite offset v) s = .next u ∧
      (keepsFrames s.par.regmap = true → u.psm = s.psm ∧ u.cs = s.cs)) ∧
    keepsFrames exemplarMap = true

/-- An offset outside the exemplar's 14 indices, the ones outside 0 to 31 included, reads 0 and ignores writes, with a
report (R69, R105). -/
def Obligations.UnmappedOffsetsOfTheExemplar : Prop :=
  ∀ (s : State) (offset : Int) (v : Byte), s.ready → s.ended = false → offset ∉ exemplarIndices →
    exec (.busRead offset) s = .next
      { s with log := s.log ++ [.unmappedRead offset], out := s.out ++ [.result (.byte 0)] } ∧
    exec (.busWrite offset v) s = .next { s with log := s.log ++ [.unmappedWrite offset v.toNat] }

/-- A bus-side read of every exemplar register but RCVFIFO returns its image and changes nothing (R99, R142, R172). -/
def Obligations.RegisterReadsReturnTheImage : Prop :=
  ∀ (s : State) (offset : Int), s.ready → s.bounded → offset ∈ exemplarIndices → offset ≠ 1 →
    exec (.rbRead offset 8) s = .next { s with out := s.out ++ [.result (.value (registerImage s.bank.val offset))] }

/-- A bus-side read of RCVFIFO takes the oldest byte of the receive queue, or reads 0 with a report; a write is ignored
(R55). -/
def Obligations.ReceiveRegisterDequeues : Prop :=
  ∀ (s : State) (value : Nat), s.ready →
    (∀ b rest, s.rcv.bytes = b :: rest → exec (.rbRead 1 8) s =
      .next { s with rcv := { s.rcv with bytes := rest }, out := s.out ++ [.result (.value b.toNat)] }) ∧
    (s.rcv.bytes = [] → exec (.rbRead 1 8) s =
      .next { s with log := s.log ++ [.fifoUnderflow .rcv], out := s.out ++ [.result (.value 0)] }) ∧
    exec (.rbWrite 1 8 value) s = .next s

/-- A write to the status register is ignored, SNDBC and PERADDR store the low seven bits, and SNDFIFO and SUDFIFO store
the byte and append it to their queue (R56, R57, R58, R66, R68). -/
def Obligations.PlainAndFifoRegisterWrites : Prop :=
  ∀ (s : State) (value : Nat), s.ready →
    exec (.rbWrite 31 8 value) s = .next s ∧
    exec (.rbWrite 7 8 value) s = .next (s.withVal { s.bank.val with sndBc := value % 128 }) ∧
    exec (.rbWrite 28 8 value) s = .next (s.withVal { s.bank.val with perAddr := value % 128 }) ∧
    (∃ t : State, exec (.fqEnq1 .snd (BitVec.ofNat 8 value)) (s.withVal { s.bank.val with sndData := value % 256 }) =
        .next t ∧ exec (.rbWrite 2 8 value) s = .next t) ∧
    ∃ t : State, exec (.fqEnq1 .sud (BitVec.ofNat 8 value)) (s.withVal { s.bank.val with sudData := value % 256 }) =
        .next t ∧ exec (.rbWrite 4 8 value) s = .next t

/-- A write to an enable register stores its bits and recomputes the line, once for each field (R60, R62, R64). -/
def Obligations.EnableRegisterWrites : Prop :=
  ∀ (s : State) (value : Nat), s.ready →
    exec (.rbWrite 14 8 value) s = .next ((s.withVal { s.bank.val with oscOkIe := value % 2 }).driven 1) ∧
    exec (.rbWrite 16 8 value) s = .next ((s.withVal { s.bank.val with ie := value % 2 }).driven 1) ∧
    exec (.rbWrite 26 8 value) s = .next ((s.withVal { s.bank.val with
      rcvDavIe := value / 4 % 2, sndBavIe := value / 8 % 2, condetIe := value / 32 % 2,
      frameIe := value / 64 % 2, hxfrdnIe := value / 128 % 2 }).driven 5)

/-- A write to a pending register clears the flags written as 1, leaves the others, and recomputes the line once for
each field: it can set none (R59, R63, R153, R180). -/
def Obligations.PendingRegisterWritesClear : Prop :=
  ∀ (s : State) (value : Nat), s.ready → s.bounded →
    exec (.rbWrite 13 8 value) s = .next ((s.withVal { s.bank.val with
      oscOkIrq := if value.testBit 0 then 0 else s.bank.val.oscOkIrq }).driven 1) ∧
    exec (.rbWrite 25 8 value) s = .next ((s.withVal { s.bank.val with
      rcvDavIrq := if value.testBit 2 then 0 else s.bank.val.rcvDavIrq
      sndBavIrq := if value.testBit 3 then 0 else s.bank.val.sndBavIrq
      condetIrq := if value.testBit 5 then 0 else s.bank.val.condetIrq
      frameIrq := if value.testBit 6 then 0 else s.bank.val.frameIrq
      hxfrdnIrq := if value.testBit 7 then 0 else s.bank.val.hxfrdnIrq }).driven 5)

/-- A write to USBCTL stores CHIPRES; on its fall from 1 to 0 oscillator-OK is set and the line recomputed, and nothing
is reset (R61). -/
def Obligations.ChipResetFallRaisesOscillatorOk : Prop :=
  ∀ (s : State) (value : Nat), s.ready →
    exec (.rbWrite 15 8 value) s = .next (
      if s.bank.val.chipRes = 1 ∧ value / 32 % 2 = 0
      then (s.withVal { s.bank.val with chipRes := 0, oscOkIrq := 1 }).driven 1
      else s.withVal { s.bank.val with chipRes := value / 32 % 2 })

/-- A write to MODE stores SOFKAENAB and starts or stops the clock, also when the bit does not change (R65). -/
def Obligations.ModeRegisterWriteRunsTheClock : Prop :=
  ∀ (s : State) (value : Nat), s.ready →
    ∃ t : State, exec (if value / 8 % 2 = 1 then .vcStart else .vcStop)
        (s.withVal { s.bank.val with sofKaEnab := value / 8 % 2 }) = .next t ∧
      exec (.rbWrite 27 8 value) s = .next t

/-- Every write to HXFR stores the byte and runs one transfer trigger with it inside the access (R67, R325). -/
def Obligations.TransferRegisterWriteTriggers : Prop :=
  ∀ (s : State) (value : Nat), s.ready →
    ∃ t : State, exec (.pXfer (BitVec.ofNat 8 value)) (s.withVal { s.bank.val with hxfr := value % 256 }) = .next t ∧
      exec (.rbWrite 30 8 value) s = .next t

/-- For every well-formed declaration: after a write to a register whose readable fields have no provider, and whose hooks
do not update its own fields, each of its fields reads as its mode says, and reserved bits read 0 (what R189 infers from
R173, R175, R177, R179, R180 and R182). Every register of the exemplar but RCVFIFO is of this kind. -/
def Obligations.ReadAfterWriteByMode : Prop :=
  ∀ (s : State) (offset : Int) (value : Nat) (r : Register),
    regmapWf s.par.width s.par.regmap = true → s.bank.busy = false → r ∈ s.par.regmap → r.index = offset →
    (∀ f ∈ r.fields, f.mode = .wo ∨ f.provider = none) →
    (∀ f ∈ r.fields, ∀ h, f.writeEffect = some h ∨ f.postWrite = some h →
      ∀ g ∈ r.fields, ∀ (old new : Nat) (u : State), (callHook h old new u).fld g.name = u.fld g.name) →
    ∃ t : State, exec (.rbWrite offset s.par.width value) s = .next t ∧
      exec (.rbRead offset s.par.width) t = .next (t.result (.value (r.fields.foldl (fun acc f =>
        acc ||| ((match f.mode with
          | .wo => 0
          | .ro => s.fld f.name
          | .rw => value / 2 ^ f.offset % 2 ^ f.width
          | .w1c => s.fld f.name &&& (2 ^ f.width - 1 - value / 2 ^ f.offset % 2 ^ f.width)) <<< f.offset)) 0)))

/-- A bank access that a hook starts is reported, answers 0 or does nothing, and the outer access goes on and clears the
guard: for a field whose provider reads and writes the same bank and returns what it read, and for a field whose
`postWrite` reads and writes it (R183). -/
def Obligations.HookBankAccessIsRefused : Prop :=
  ∀ (s : State) (offset o p : Int) (w k value : Nat) (x : HookExpr) (r : Register) (f : Field),
    regmapWf s.par.width s.par.regmap = true → s.bank.busy = false → findRegister s.par.regmap offset = some r →
    r.fields = [f] → f.mode = .rw →
    (f.provider = some { body := .seq (.call (.bankRead o w k)) (.call (.bankWrite p w x)), value := .num k } →
      exec (.rbRead offset s.par.width) s = .next
        (State.result { s with log := s.log ++ [.reentrant o, .reentrant p] } (.value 0))) ∧
    (f.writeEffect = none → f.postWrite = some (.seq (.call (.bankRead o w k)) (.call (.bankWrite p w x))) →
      exec (.rbWrite offset s.par.width value) s = .next
        { s.withVal (s.bank.val.set f.name (value / 2 ^ f.offset % 2 ^ f.width)) with
          log := s.log ++ [.reentrant o, .reentrant p] })

/-- For every declaration: bits of a written value at positions that no field of the register maps influence nothing,
and such positions read 0 (R182). -/
def Obligations.ReservedBitsAreDropped : Prop :=
  ∀ (s : State) (offset : Int) (r : Register), s.bank.busy = false → s.bounded →
    findRegister s.par.regmap offset = some r →
    (∀ v w : Nat, (∀ f ∈ r.fields, ∀ k, f.offset ≤ k → k < f.offset + f.width → v.testBit k = w.testBit k) →
      ∃ t : State, exec (.rbWrite offset s.par.width v) s = .next t ∧ exec (.rbWrite offset s.par.width w) s = .next t) ∧
    ∃ (t : State) (n : Nat), exec (.rbRead offset s.par.width) s = .next (t.result (.value n)) ∧
      ∀ k, (∀ f ∈ r.fields, ¬ (f.offset ≤ k ∧ k < f.offset + f.width)) → n.testBit k = false

/-- The bank's reset puts every declared field at the slice of its register's reset value, whatever its mode, and clears
the guard; no hook runs, and nothing else changes (R184). That a field which the declaration does not list keeps its value
is the model's choice (log entry 19). -/
def Obligations.BankResetRestoresDeclaredValues : Prop :=
  ∀ s : State, regmapWf s.par.width s.par.regmap = true →
    ∃ t : State, exec .rbReset s = .next t ∧ t.bank.busy = false ∧ { t with bank := s.bank } = s ∧
      (∀ r ∈ s.par.regmap, ∀ f ∈ r.fields, t.fld f.name = r.reset / 2 ^ f.offset % 2 ^ f.width) ∧
      ∀ g : FieldId, (∀ r ∈ s.par.regmap, ∀ f ∈ r.fields, f.name ≠ g) → t.fld g = s.fld g

/-- The hardware never updates a read-write field of the exemplar by itself: only a bus-side write to the register that
holds it, or a reset, changes one (what R111 infers). -/
def Obligations.ReadWriteFieldsChangeOnlyByBusWrites : Prop :=
  ∀ (a : Stimulus) (s t : State) (f : FieldId), s.exemplar → exec a.toInstr s = .next t → t.fld f ≠ s.fld f →
    f ∈ [FieldId.sndBc, .oscOkIe, .chipRes, .ie, .rcvDavIe, .sndBavIe, .condetIe, .frameIe, .hxfrdnIe, .sofKaEnab,
      .perAddr, .hxfr] →
    (∃ n v r, BusWrites a s n v ∧ findRegister exemplarMap n = some r ∧ f ∈ r.fields.map (·.name)) ∨ a = .pReset

/-- The exemplar's own hooks start no bank access and its accesses have the bank's width: no step reports a re-entrant
access, a bad width or a decode error (R183, R285). -/
def Obligations.ExemplarNeverReportsContractBreaches : Prop :=
  ∀ (s t : State) (r : Report), s.ready → step s = .next t → r ∈ t.log → r ∉ s.log →
    (∀ o, r ≠ .reentrant o) ∧ (∀ o w, r ≠ .badWidth o w) ∧ ∀ b, r ≠ .decodeError b

/-! ## Transfers -/

/-- Attach at a free address 0 to 127 records the device, writes the attach status, sets connect/disconnect and
recomputes. Detach removes the device, sets connect/disconnect and recomputes, and the status bits stay. Either is a
change of the topology, after which the other devices may answer otherwise (R322, R323, R353; log entry 10). Attach
elsewhere, and detach where no device is, are refused: this is U9, and that the model refuses there is log entry 7. -/
def Obligations.AttachAndDetachSetTheFlag : Prop :=
  ∀ (s : State) (a : Nat) (d : Device), s.ended = false →
    (a < 128 → s.device a = none → exec (.pAttach a d) s = .next
      ((State.withVal { s with dev := keyPut a d (s.dev.map fun e => (e.1, nextAnswers e.2)) }
        { s.bank.val with busState := s.par.attachStatus.toNat, condetIrq := 1 }).driven 1)) ∧
    (a < 128 → s.device a ≠ none → exec (.pAttach a d) s = .refused (.addressOccupied a)) ∧
    (128 ≤ a → exec (.pAttach a d) s = .refused (.addressOutOfRange a)) ∧
    (s.device a ≠ none → exec (.pDetach a) s = .next
      ((State.withVal { s with dev := (s.dev.filter fun e => e.1 ≠ a).map fun e => (e.1, nextAnswers e.2) }
        { s.bank.val with condetIrq := 1 }).driven 1)) ∧
    (s.device a = none → exec (.pDetach a) s = .refused (.addressEmpty a))

/-- The trigger looks the addressed device up first. With none there a trigger of any kind reports it, sets the done
flag, recomputes, and does no I/O. With a device there the trigger runs the request its byte decodes to (R325,
R327). -/
def Obligations.TriggerLooksUpTheDeviceFirst : Prop :=
  ∀ (s : State) (v : Byte) (d : Device) (i : Instr), decode .xfr8 [v] = .ok (i, []) →
    (s.device s.bank.val.perAddr = none →
      exec (.pXfer v) s = .next ((State.withVal { s with log := s.log ++ [.noDevice s.bank.val.perAddr] }
        { s.bank.val with hxfrdnIrq := 1 }).driven 1)) ∧
    (s.device s.bank.val.perAddr = some d → ∃ t : State, exec i s = .next t ∧ exec (.pXfer v) s = .next t)

/-- Operations that the spec runs only inside another, taken by themselves where their context is missing: a request
with no device at the addressed address completes as a trigger there does (log entry 12), and a data byte outside
Writing or a dummy byte outside Reading is an unexpected byte, reported and answered with 0 (log entry 13). The model's
choices. -/
def Obligations.InternalOperationsTakenByThemselves : Prop :=
  ∀ (s : State) (v : Byte) (i : Instr),
    (decode .xfr8 [v] = .ok (i, []) → s.device s.bank.val.perAddr = none →
      exec i s = .next ((State.withVal { s with log := s.log ++ [.noDevice s.bank.val.perAddr] }
        { s.bank.val with hxfrdnIrq := 1 }).driven 1)) ∧
    ((∀ t, s.psm.state ≠ .writing t) → exec (.psmData v) s =
      .next { s with log := s.log ++ [.unexpectedState v], out := s.out ++ [.result (.byte 0)] }) ∧
    ((∀ t, s.psm.state ≠ .reading t) → exec (.psmDummy v) s =
      .next { s with log := s.log ++ [.unexpectedState v], out := s.out ++ [.result (.byte 0)] })

/-- A setup request on endpoint 0 is a setup transaction with the device; on any other endpoint it is reported and
nothing else happens. A handshake sets the done flag and recomputes (R328, R329). -/
def Obligations.SetupAndHandshakeRequests : Prop :=
  ∀ (s : State) (d : Device) (ep : BitVec 4), s.device s.bank.val.perAddr = some d →
    (ep ≠ 0 → exec (.xferSetup ep) s = .next { s with log := s.log ++ [.setupBadEp ep.toNat] }) ∧
    (∃ t : State, exec (.pSetup d) s = .next t ∧ exec (.xferSetup 0) s = .next t) ∧
    exec .xferHs s = .next ((s.withVal { s.bank.val with hxfrdnIrq := 1 }).driven 1)

/-- A data request: endpoint index 0 completes without I/O; an index the device does not have is reported and completes
without I/O; else an OUT is a bulk OUT, and an IN a bulk IN, on the endpoint (R332, R333). -/
def Obligations.DataRequestsResolveTheEndpoint : Prop :=
  ∀ (s : State) (d : Device) (ep : BitVec 4), s.device s.bank.val.perAddr = some d →
    (exec (.xferOut 0) s = .next ((s.withVal { s.bank.val with hxfrdnIrq := 1 }).driven 1) ∧
      exec (.xferIn 0) s = .next ((s.withVal { s.bank.val with hxfrdnIrq := 1 }).driven 1)) ∧
    (ep ≠ 0 → ep.toNat ∉ d.endpoints →
      exec (.xferOut ep) s = .next ((State.withVal { s with log := s.log ++ [.noEndpoint ep.toNat] }
        { s.bank.val with hxfrdnIrq := 1 }).driven 1) ∧
      exec (.xferIn ep) s = .next ((State.withVal { s with log := s.log ++ [.noEndpoint ep.toNat] }
        { s.bank.val with hxfrdnIrq := 1 }).driven 1)) ∧
    (ep ≠ 0 → ep.toNat ∈ d.endpoints →
      (∃ t : State, exec (.pBulkOut ⟨d.ident, ep.toNat⟩) s = .next t ∧ exec (.xferOut ep) s = .next t) ∧
      ∃ t : State, exec (.pBulkIn (some ⟨d.ident, ep.toNat⟩)) s = .next t ∧ exec (.xferIn ep) s = .next t)

/-- A setup transaction drains the setup FIFO; fewer than eight bytes are reported and lost with no flag; eight or more
are handed to the device with a fresh subscription and no flag (R330). -/
def Obligations.SetupTransactionDrainsAndHandsOver : Prop :=
  ∀ (s : State) (d : Device),
    (s.sud.bytes.length < 8 → exec (.pSetup d) s = .next
      { s with sud := { s.sud with bytes := [] }, log := s.log ++ [.setupDecode s.sud.bytes.length] }) ∧
    (8 ≤ s.sud.bytes.length → ∃ p, decodeSetup s.sud.bytes = some p ∧ exec (.pSetup d) s = .next
      { s with
        sud := { s.sud with bytes := [] }
        nextId := s.nextId + 1
        pend := s.pend ++ [⟨s.nextId, .setupResp⟩]
        out := s.out ++ [.handleSetup d p s.nextId] })

/-- A bulk OUT reports a count that does not match, delivers the oldest bytes up to the declared count, sets
send-buffer-available (and done where the parameter says so) and recomputes (R334). -/
def Obligations.BulkOutDeliversTheDeclaredCount : Prop :=
  ∀ (s : State) (e : Endpoint),
    exec (.pBulkOut e) s = .next
      ((State.withVal { s with
          snd := { s.snd with bytes := s.snd.bytes.drop s.bank.val.sndBc }
          log := s.log ++ (if s.bank.val.sndBc = s.snd.bytes.length then []
            else [.byteCountMismatch s.bank.val.sndBc s.snd.bytes.length])
          out := s.out ++ [.writeData e (s.snd.bytes.take s.bank.val.sndBc)] }
        { s.bank.val with
          sndBavIrq := 1
          hxfrdnIrq := if s.par.bulkOutSetsDone then 1 else s.bank.val.hxfrdnIrq }).driven 1)

/-- A bulk IN without endpoint completes at once; with one it subscribes under a fresh identifier and sets no flag
(R336). -/
def Obligations.BulkInSubscribesOrCompletes : Prop :=
  ∀ (s : State) (e : Endpoint),
    exec (.pBulkIn none) s = .next ((s.withVal { s.bank.val with hxfrdnIrq := 1 }).driven 1) ∧
    exec (.pBulkIn (some e)) s = .next
      { s with
        nextId := s.nextId + 1
        pend := s.pend ++ [⟨s.nextId, .dataReady⟩]
        out := s.out ++ [.subscribeDataReady e s.nextId] }

/-- A pending callback on a live peripheral removes its subscription, appends the bytes to the receive queue, sets
receive-data-available if there are any, sets done and recomputes. It is enabled exactly when its identifier is pending
with its kind, and the model answers with the state unchanged otherwise (R338, R344; that answer is log entry 5). -/
def Obligations.CallbacksCompletePendingSubscriptions : Prop :=
  ∀ (s : State) (n c : Nat) (bs : List Byte), s.ended = false →
    (⟨n, .dataReady⟩ ∈ s.pend →
      ∃ u : State, exec (.fqEnqN .rcv bs) { s with pend := s.pend.filter fun p => p ≠ ⟨n, .dataReady⟩ } = .next u ∧
        exec (.cbDataReady n c bs) s = .next ((u.withVal { u.bank.val with
          rcvDavIrq := if bs = [] then u.bank.val.rcvDavIrq else 1, hxfrdnIrq := 1 }).driven 1)) ∧
    (⟨n, .setupResp⟩ ∈ s.pend →
      ∃ u : State, exec (.fqEnqN .rcv bs) { s with pend := s.pend.filter fun p => p ≠ ⟨n, .setupResp⟩ } = .next u ∧
        exec (.cbSetupResp n bs) s = .next ((u.withVal { u.bank.val with
          rcvDavIrq := if bs = [] then u.bank.val.rcvDavIrq else 1, hxfrdnIrq := 1 }).driven 1)) ∧
    (⟨n, .dataReady⟩ ∉ s.pend → exec (.cbDataReady n c bs) s = .next s) ∧
    (⟨n, .setupResp⟩ ∉ s.pend → exec (.cbSetupResp n bs) s = .next s)

/-- An event that is not enabled has no step: the model answers with the state unchanged (log entry 5). A tick of a
clock that is stopped or disposed; a callback whose subscription is not pending, so also a second firing of one that
was, and a firing after a reset (R231, R346). -/
def Obligations.EventsNotEnabledChangeNothing : Prop :=
  ∀ (s t u : State) (n c : Nat) (bs cs : List Byte),
    (s.clk.running = false ∨ s.clk.disposed = true → exec .vcTick s = .next s) ∧
    (⟨n, .dataReady⟩ ∉ s.pend → exec (.cbDataReady n c bs) s = .next s) ∧
    (⟨n, .setupResp⟩ ∉ s.pend → exec (.cbSetupResp n bs) s = .next s) ∧
    (exec (.cbDataReady n c bs) s = .next t → exec (.cbDataReady n c cs) t = .next t) ∧
    (exec (.cbSetupResp n bs) s = .next t → exec (.cbSetupResp n cs) t = .next t) ∧
    (exec .pReset s = .next u → exec (.cbDataReady n c bs) u = .next u ∧ exec (.cbSetupResp n bs) u = .next u)

/-! ## Reset, disposal, whole machine -/

/-- Peripheral reset: registers at their reset values, protocol machine Idle with no target, queues empty, clock
stopped, subscriptions discarded, line driven false; select level, topology, identifiers, disposal, log and parameters
survive (R421). -/
def Obligations.PeripheralResetLeavesTheResetState : Prop :=
  ∀ s : State, s.exemplar → s.ended = false →
    exec .pReset s = .next
      { s with
        bank := { val := { other := s.bank.val.other }, busy := false }
        psm := { state := .idle, last := none }
        sud := { s.sud with bytes := [] }
        snd := { s.snd with bytes := [] }
        rcv := { s.rcv with bytes := [] }
        clk := { s.clk with running := false, elapsed := 0 }
        irq := false
        pend := []
        out := s.out ++ [.lineSet false] }

/-- P.DISPOSE disposes the clock and discards the subscriptions; registers, queues and line keep their values. It does so
too where the clock alone has been disposed before. After it every agent step changes nothing or is refused, so no step
changes a register, the line, a queue or the clock, drives an output, or undoes the disposal (R230, R422; which agent steps
are refused, which change nothing, and that `ended` records the disposal, is log entry 8). -/
def Obligations.DisposalEndsTheRun : Prop :=
  ∀ s : State,
    (s.ended = false → exec .pDispose s = .next
      { s with clk := { s.clk with running := false, disposed := true, elapsed := 0 }, pend := [], ended := true }) ∧
    (s.ended = true → s.clk.disposed = true →
      (∀ a : Stimulus,
        exec a.toInstr s = .next s ∨ exec a.toInstr s = .refused .disposed ∨ ∃ dt, a = .vcAdvance dt ∧ dt < 0) ∧
      ∀ t, step s = .next t → ∃ rest, t = { s with inbox := rest })

/-- The state after construction (R80, R321): every field 0, the machine Idle with no target, queues empty at their
capacities, clock stopped, line low, nothing pending; it is what construction with the default parameters gives. The
clock's rate of 1 and that construction drives no output are the model's choices (log entries 1, 21). -/
def Obligations.ConstructionState : Prop :=
  (∀ f : FieldId, State.reset.fld f = 0) ∧ State.reset.psm = ⟨.idle, none⟩ ∧ State.reset.cs = false ∧
  State.reset.irq = false ∧ State.reset.pend = [] ∧ State.reset.nextId = 0 ∧ State.reset.dev = [] ∧
  State.reset.sud = ⟨[], some 8⟩ ∧ State.reset.snd = ⟨[], some 64⟩ ∧ State.reset.rcv = ⟨[], none⟩ ∧
  State.reset.clk.running = false ∧ construct exemplarParams none 1 = .next State.reset

/-- The state after construction meets the invariant. -/
def Obligations.ResetStateMeetsTheInvariant : Prop := Inv State.reset

/-- Every step from every state that meets the invariant of the exemplar leads to one that meets it. -/
def Obligations.EveryStepKeepsTheInvariant : Prop :=
  ∀ s t : State, Inv s → step s = .next t → Inv t

/-- No operation changes a parameter, or takes back a report or an output; the counter of identifiers never falls, and
every subscription that is new has an identifier which the counter had not passed before and has passed now, so none is
used again. No operation but VC.OBTAIN, which is for construction only, changes the clock's rate or callback or makes a
disposed clock live again, whatever the hooks of the declaration (R30, R53, R158, R226, R230; VC.OBTAIN by itself is log
entry 15). -/
def Obligations.HistoryOnlyGrows : Prop :=
  ∀ (i : Instr) (s t : State), exec i s = .next t →
    t.par = s.par ∧ s.log <+: t.log ∧ s.out <+: t.out ∧ s.nextId ≤ t.nextId ∧
    (∀ p ∈ t.pend, p ∉ s.pend → s.nextId ≤ p.id ∧ p.id < t.nextId) ∧
    ((∀ cb r, i ≠ .vcObtain cb r) → t.clk.rate = s.clk.rate ∧ t.clk.callback = s.clk.callback ∧
      (s.clk.disposed = true → t.clk.disposed = true))

/-- The log, the outputs and the last decoded target influence nothing: two states that differ in them alone answer
every operation alike, and differ in them alone afterwards (R45, R53). -/
def Obligations.LogAndLastTargetInfluenceNothing : Prop :=
  ∀ (i : Instr) (s s' : State), s.visible = s'.visible →
    (∃ t t', exec i s = .next t ∧ exec i s' = .next t' ∧ t.visible = t'.visible) ∨
    ∃ r, exec i s = .refused r ∧ exec i s' = .refused r
end

