-- ==== Sys2Proof/Laws/State.lean ====
section
/-! SUPPORT. One lemma per field of State for every plain update of the state, true by `rfl`, so that no proof unfolds a
record update. -/

namespace Sys2Proof.Machine

/-! ### A report -/

@[simp] theorem State.report_par (s : State) (r : Report) : (s.report r).par = s.par := rfl
@[simp] theorem State.report_psm (s : State) (r : Report) : (s.report r).psm = s.psm := rfl
@[simp] theorem State.report_cs (s : State) (r : Report) : (s.report r).cs = s.cs := rfl
@[simp] theorem State.report_sud (s : State) (r : Report) : (s.report r).sud = s.sud := rfl
@[simp] theorem State.report_snd (s : State) (r : Report) : (s.report r).snd = s.snd := rfl
@[simp] theorem State.report_rcv (s : State) (r : Report) : (s.report r).rcv = s.rcv := rfl
@[simp] theorem State.report_clk (s : State) (r : Report) : (s.report r).clk = s.clk := rfl
@[simp] theorem State.report_irq (s : State) (r : Report) : (s.report r).irq = s.irq := rfl
@[simp] theorem State.report_pend (s : State) (r : Report) : (s.report r).pend = s.pend := rfl
@[simp] theorem State.report_nextId (s : State) (r : Report) : (s.report r).nextId = s.nextId := rfl
@[simp] theorem State.report_dev (s : State) (r : Report) : (s.report r).dev = s.dev := rfl
@[simp] theorem State.report_out (s : State) (r : Report) : (s.report r).out = s.out := rfl
@[simp] theorem State.report_inbox (s : State) (r : Report) : (s.report r).inbox = s.inbox := rfl
@[simp] theorem State.report_ended (s : State) (r : Report) : (s.report r).ended = s.ended := rfl
@[simp] theorem State.report_bank (s : State) (r : Report) : (s.report r).bank = s.bank := rfl
@[simp] theorem State.report_log (s : State) (r : Report) : (s.report r).log = s.log ++ [r] := rfl

/-! ### An output -/

@[simp] theorem State.emit_par (s : State) (o : Output) : (s.emit o).par = s.par := rfl
@[simp] theorem State.emit_psm (s : State) (o : Output) : (s.emit o).psm = s.psm := rfl
@[simp] theorem State.emit_cs (s : State) (o : Output) : (s.emit o).cs = s.cs := rfl
@[simp] theorem State.emit_sud (s : State) (o : Output) : (s.emit o).sud = s.sud := rfl
@[simp] theorem State.emit_snd (s : State) (o : Output) : (s.emit o).snd = s.snd := rfl
@[simp] theorem State.emit_rcv (s : State) (o : Output) : (s.emit o).rcv = s.rcv := rfl
@[simp] theorem State.emit_clk (s : State) (o : Output) : (s.emit o).clk = s.clk := rfl
@[simp] theorem State.emit_irq (s : State) (o : Output) : (s.emit o).irq = s.irq := rfl
@[simp] theorem State.emit_pend (s : State) (o : Output) : (s.emit o).pend = s.pend := rfl
@[simp] theorem State.emit_nextId (s : State) (o : Output) : (s.emit o).nextId = s.nextId := rfl
@[simp] theorem State.emit_dev (s : State) (o : Output) : (s.emit o).dev = s.dev := rfl
@[simp] theorem State.emit_log (s : State) (o : Output) : (s.emit o).log = s.log := rfl
@[simp] theorem State.emit_inbox (s : State) (o : Output) : (s.emit o).inbox = s.inbox := rfl
@[simp] theorem State.emit_ended (s : State) (o : Output) : (s.emit o).ended = s.ended := rfl
@[simp] theorem State.emit_bank (s : State) (o : Output) : (s.emit o).bank = s.bank := rfl
@[simp] theorem State.emit_out (s : State) (o : Output) : (s.emit o).out = s.out ++ [o] := rfl

/-! ### A result -/

@[simp] theorem State.result_par (s : State) (r : Result) : (s.result r).par = s.par := rfl
@[simp] theorem State.result_psm (s : State) (r : Result) : (s.result r).psm = s.psm := rfl
@[simp] theorem State.result_cs (s : State) (r : Result) : (s.result r).cs = s.cs := rfl
@[simp] theorem State.result_sud (s : State) (r : Result) : (s.result r).sud = s.sud := rfl
@[simp] theorem State.result_snd (s : State) (r : Result) : (s.result r).snd = s.snd := rfl
@[simp] theorem State.result_rcv (s : State) (r : Result) : (s.result r).rcv = s.rcv := rfl
@[simp] theorem State.result_clk (s : State) (r : Result) : (s.result r).clk = s.clk := rfl
@[simp] theorem State.result_irq (s : State) (r : Result) : (s.result r).irq = s.irq := rfl
@[simp] theorem State.result_pend (s : State) (r : Result) : (s.result r).pend = s.pend := rfl
@[simp] theorem State.result_nextId (s : State) (r : Result) : (s.result r).nextId = s.nextId := rfl
@[simp] theorem State.result_dev (s : State) (r : Result) : (s.result r).dev = s.dev := rfl
@[simp] theorem State.result_log (s : State) (r : Result) : (s.result r).log = s.log := rfl
@[simp] theorem State.result_inbox (s : State) (r : Result) : (s.result r).inbox = s.inbox := rfl
@[simp] theorem State.result_ended (s : State) (r : Result) : (s.result r).ended = s.ended := rfl
@[simp] theorem State.result_bank (s : State) (r : Result) : (s.result r).bank = s.bank := rfl
@[simp] theorem State.result_out (s : State) (r : Result) : (s.result r).out = s.out ++ [.result r] := rfl

/-! ### A field set -/

@[simp] theorem State.setFld_par (s : State) (f : FieldId) (v : Nat) : (s.setFld f v).par = s.par := rfl
@[simp] theorem State.setFld_psm (s : State) (f : FieldId) (v : Nat) : (s.setFld f v).psm = s.psm := rfl
@[simp] theorem State.setFld_cs (s : State) (f : FieldId) (v : Nat) : (s.setFld f v).cs = s.cs := rfl
@[simp] theorem State.setFld_sud (s : State) (f : FieldId) (v : Nat) : (s.setFld f v).sud = s.sud := rfl
@[simp] theorem State.setFld_snd (s : State) (f : FieldId) (v : Nat) : (s.setFld f v).snd = s.snd := rfl
@[simp] theorem State.setFld_rcv (s : State) (f : FieldId) (v : Nat) : (s.setFld f v).rcv = s.rcv := rfl
@[simp] theorem State.setFld_clk (s : State) (f : FieldId) (v : Nat) : (s.setFld f v).clk = s.clk := rfl
@[simp] theorem State.setFld_irq (s : State) (f : FieldId) (v : Nat) : (s.setFld f v).irq = s.irq := rfl
@[simp] theorem State.setFld_pend (s : State) (f : FieldId) (v : Nat) : (s.setFld f v).pend = s.pend := rfl
@[simp] theorem State.setFld_nextId (s : State) (f : FieldId) (v : Nat) : (s.setFld f v).nextId = s.nextId := rfl
@[simp] theorem State.setFld_dev (s : State) (f : FieldId) (v : Nat) : (s.setFld f v).dev = s.dev := rfl
@[simp] theorem State.setFld_log (s : State) (f : FieldId) (v : Nat) : (s.setFld f v).log = s.log := rfl
@[simp] theorem State.setFld_out (s : State) (f : FieldId) (v : Nat) : (s.setFld f v).out = s.out := rfl
@[simp] theorem State.setFld_inbox (s : State) (f : FieldId) (v : Nat) : (s.setFld f v).inbox = s.inbox := rfl
@[simp] theorem State.setFld_ended (s : State) (f : FieldId) (v : Nat) : (s.setFld f v).ended = s.ended := rfl
@[simp] theorem State.setFld_val (s : State) (f : FieldId) (v : Nat) : (s.setFld f v).bank.val = s.bank.val.set f v := rfl
@[simp] theorem State.setFld_busy (s : State) (f : FieldId) (v : Nat) : (s.setFld f v).bank.busy = s.bank.busy := rfl

/-! ### A raw update -/

@[simp] theorem State.raw_par (s : State) (f : FieldId) (v : Nat) : (s.raw f v).par = s.par := rfl
@[simp] theorem State.raw_psm (s : State) (f : FieldId) (v : Nat) : (s.raw f v).psm = s.psm := rfl
@[simp] theorem State.raw_cs (s : State) (f : FieldId) (v : Nat) : (s.raw f v).cs = s.cs := rfl
@[simp] theorem State.raw_sud (s : State) (f : FieldId) (v : Nat) : (s.raw f v).sud = s.sud := rfl
@[simp] theorem State.raw_snd (s : State) (f : FieldId) (v : Nat) : (s.raw f v).snd = s.snd := rfl
@[simp] theorem State.raw_rcv (s : State) (f : FieldId) (v : Nat) : (s.raw f v).rcv = s.rcv := rfl
@[simp] theorem State.raw_clk (s : State) (f : FieldId) (v : Nat) : (s.raw f v).clk = s.clk := rfl
@[simp] theorem State.raw_irq (s : State) (f : FieldId) (v : Nat) : (s.raw f v).irq = s.irq := rfl
@[simp] theorem State.raw_pend (s : State) (f : FieldId) (v : Nat) : (s.raw f v).pend = s.pend := rfl
@[simp] theorem State.raw_nextId (s : State) (f : FieldId) (v : Nat) : (s.raw f v).nextId = s.nextId := rfl
@[simp] theorem State.raw_dev (s : State) (f : FieldId) (v : Nat) : (s.raw f v).dev = s.dev := rfl
@[simp] theorem State.raw_log (s : State) (f : FieldId) (v : Nat) : (s.raw f v).log = s.log := rfl
@[simp] theorem State.raw_out (s : State) (f : FieldId) (v : Nat) : (s.raw f v).out = s.out := rfl
@[simp] theorem State.raw_inbox (s : State) (f : FieldId) (v : Nat) : (s.raw f v).inbox = s.inbox := rfl
@[simp] theorem State.raw_ended (s : State) (f : FieldId) (v : Nat) : (s.raw f v).ended = s.ended := rfl
@[simp] theorem State.raw_val (s : State) (f : FieldId) (v : Nat) : (s.raw f v).bank.val = s.bank.val.set f (trunc f.width v) := rfl
@[simp] theorem State.raw_busy (s : State) (f : FieldId) (v : Nat) : (s.raw f v).bank.busy = s.bank.busy := rfl

/-! ### The guard flag -/

@[simp] theorem State.setBusy_par (s : State) (b : Bool) : (s.setBusy b).par = s.par := rfl
@[simp] theorem State.setBusy_psm (s : State) (b : Bool) : (s.setBusy b).psm = s.psm := rfl
@[simp] theorem State.setBusy_cs (s : State) (b : Bool) : (s.setBusy b).cs = s.cs := rfl
@[simp] theorem State.setBusy_sud (s : State) (b : Bool) : (s.setBusy b).sud = s.sud := rfl
@[simp] theorem State.setBusy_snd (s : State) (b : Bool) : (s.setBusy b).snd = s.snd := rfl
@[simp] theorem State.setBusy_rcv (s : State) (b : Bool) : (s.setBusy b).rcv = s.rcv := rfl
@[simp] theorem State.setBusy_clk (s : State) (b : Bool) : (s.setBusy b).clk = s.clk := rfl
@[simp] theorem State.setBusy_irq (s : State) (b : Bool) : (s.setBusy b).irq = s.irq := rfl
@[simp] theorem State.setBusy_pend (s : State) (b : Bool) : (s.setBusy b).pend = s.pend := rfl
@[simp] theorem State.setBusy_nextId (s : State) (b : Bool) : (s.setBusy b).nextId = s.nextId := rfl
@[simp] theorem State.setBusy_dev (s : State) (b : Bool) : (s.setBusy b).dev = s.dev := rfl
@[simp] theorem State.setBusy_log (s : State) (b : Bool) : (s.setBusy b).log = s.log := rfl
@[simp] theorem State.setBusy_out (s : State) (b : Bool) : (s.setBusy b).out = s.out := rfl
@[simp] theorem State.setBusy_inbox (s : State) (b : Bool) : (s.setBusy b).inbox = s.inbox := rfl
@[simp] theorem State.setBusy_ended (s : State) (b : Bool) : (s.setBusy b).ended = s.ended := rfl
@[simp] theorem State.setBusy_val (s : State) (b : Bool) : (s.setBusy b).bank.val = s.bank.val := rfl
@[simp] theorem State.setBusy_busy (s : State) (b : Bool) : (s.setBusy b).bank.busy = b := rfl

/-! ### The line -/

@[simp] theorem setLine_par (s : State) (b : Bool) : (setLine b s).par = s.par := rfl
@[simp] theorem setLine_psm (s : State) (b : Bool) : (setLine b s).psm = s.psm := rfl
@[simp] theorem setLine_cs (s : State) (b : Bool) : (setLine b s).cs = s.cs := rfl
@[simp] theorem setLine_sud (s : State) (b : Bool) : (setLine b s).sud = s.sud := rfl
@[simp] theorem setLine_snd (s : State) (b : Bool) : (setLine b s).snd = s.snd := rfl
@[simp] theorem setLine_rcv (s : State) (b : Bool) : (setLine b s).rcv = s.rcv := rfl
@[simp] theorem setLine_clk (s : State) (b : Bool) : (setLine b s).clk = s.clk := rfl
@[simp] theorem setLine_pend (s : State) (b : Bool) : (setLine b s).pend = s.pend := rfl
@[simp] theorem setLine_nextId (s : State) (b : Bool) : (setLine b s).nextId = s.nextId := rfl
@[simp] theorem setLine_dev (s : State) (b : Bool) : (setLine b s).dev = s.dev := rfl
@[simp] theorem setLine_log (s : State) (b : Bool) : (setLine b s).log = s.log := rfl
@[simp] theorem setLine_inbox (s : State) (b : Bool) : (setLine b s).inbox = s.inbox := rfl
@[simp] theorem setLine_ended (s : State) (b : Bool) : (setLine b s).ended = s.ended := rfl
@[simp] theorem setLine_bank (s : State) (b : Bool) : (setLine b s).bank = s.bank := rfl
@[simp] theorem setLine_irq (s : State) (b : Bool) : (setLine b s).irq = b := rfl
@[simp] theorem setLine_out (s : State) (b : Bool) : (setLine b s).out = s.out ++ [.lineSet b] := rfl

/-! ### The recompute -/

@[simp] theorem recompute_par (s : State) : (recompute s).par = s.par := rfl
@[simp] theorem recompute_psm (s : State) : (recompute s).psm = s.psm := rfl
@[simp] theorem recompute_cs (s : State) : (recompute s).cs = s.cs := rfl
@[simp] theorem recompute_sud (s : State) : (recompute s).sud = s.sud := rfl
@[simp] theorem recompute_snd (s : State) : (recompute s).snd = s.snd := rfl
@[simp] theorem recompute_rcv (s : State) : (recompute s).rcv = s.rcv := rfl
@[simp] theorem recompute_clk (s : State) : (recompute s).clk = s.clk := rfl
@[simp] theorem recompute_pend (s : State) : (recompute s).pend = s.pend := rfl
@[simp] theorem recompute_nextId (s : State) : (recompute s).nextId = s.nextId := rfl
@[simp] theorem recompute_dev (s : State) : (recompute s).dev = s.dev := rfl
@[simp] theorem recompute_log (s : State) : (recompute s).log = s.log := rfl
@[simp] theorem recompute_inbox (s : State) : (recompute s).inbox = s.inbox := rfl
@[simp] theorem recompute_ended (s : State) : (recompute s).ended = s.ended := rfl
@[simp] theorem recompute_bank (s : State) : (recompute s).bank = s.bank := rfl
@[simp] theorem recompute_irq (s : State) : (recompute s).irq = aggregate s.bank.val := rfl
@[simp] theorem recompute_out (s : State) : (recompute s).out = s.out ++ [.lineSet (aggregate s.bank.val)] := rfl

/-! ### An interrupt raised -/

@[simp] theorem raiseFlag_par (s : State) (f : FieldId) : (raiseFlag f s).par = s.par := rfl
@[simp] theorem raiseFlag_psm (s : State) (f : FieldId) : (raiseFlag f s).psm = s.psm := rfl
@[simp] theorem raiseFlag_cs (s : State) (f : FieldId) : (raiseFlag f s).cs = s.cs := rfl
@[simp] theorem raiseFlag_sud (s : State) (f : FieldId) : (raiseFlag f s).sud = s.sud := rfl
@[simp] theorem raiseFlag_snd (s : State) (f : FieldId) : (raiseFlag f s).snd = s.snd := rfl
@[simp] theorem raiseFlag_rcv (s : State) (f : FieldId) : (raiseFlag f s).rcv = s.rcv := rfl
@[simp] theorem raiseFlag_clk (s : State) (f : FieldId) : (raiseFlag f s).clk = s.clk := rfl
@[simp] theorem raiseFlag_pend (s : State) (f : FieldId) : (raiseFlag f s).pend = s.pend := rfl
@[simp] theorem raiseFlag_nextId (s : State) (f : FieldId) : (raiseFlag f s).nextId = s.nextId := rfl
@[simp] theorem raiseFlag_dev (s : State) (f : FieldId) : (raiseFlag f s).dev = s.dev := rfl
@[simp] theorem raiseFlag_log (s : State) (f : FieldId) : (raiseFlag f s).log = s.log := rfl
@[simp] theorem raiseFlag_inbox (s : State) (f : FieldId) : (raiseFlag f s).inbox = s.inbox := rfl
@[simp] theorem raiseFlag_ended (s : State) (f : FieldId) : (raiseFlag f s).ended = s.ended := rfl
@[simp] theorem raiseFlag_val (s : State) (f : FieldId) : (raiseFlag f s).bank.val = s.bank.val.set f (trunc f.width 1) := rfl
@[simp] theorem raiseFlag_busy (s : State) (f : FieldId) : (raiseFlag f s).bank.busy = s.bank.busy := rfl
@[simp] theorem raiseFlag_irq (s : State) (f : FieldId) :
    (raiseFlag f s).irq = aggregate (s.bank.val.set f (trunc f.width 1)) := rfl
@[simp] theorem raiseFlag_out (s : State) (f : FieldId) :
    (raiseFlag f s).out = s.out ++ [.lineSet (aggregate (s.bank.val.set f (trunc f.width 1)))] := rfl

/-! ### The protocol machine -/

@[simp] theorem State.setPsm_par (s : State) (p : PsmState) : (s.setPsm p).par = s.par := rfl
@[simp] theorem State.setPsm_cs (s : State) (p : PsmState) : (s.setPsm p).cs = s.cs := rfl
@[simp] theorem State.setPsm_sud (s : State) (p : PsmState) : (s.setPsm p).sud = s.sud := rfl
@[simp] theorem State.setPsm_snd (s : State) (p : PsmState) : (s.setPsm p).snd = s.snd := rfl
@[simp] theorem State.setPsm_rcv (s : State) (p : PsmState) : (s.setPsm p).rcv = s.rcv := rfl
@[simp] theorem State.setPsm_clk (s : State) (p : PsmState) : (s.setPsm p).clk = s.clk := rfl
@[simp] theorem State.setPsm_irq (s : State) (p : PsmState) : (s.setPsm p).irq = s.irq := rfl
@[simp] theorem State.setPsm_pend (s : State) (p : PsmState) : (s.setPsm p).pend = s.pend := rfl
@[simp] theorem State.setPsm_nextId (s : State) (p : PsmState) : (s.setPsm p).nextId = s.nextId := rfl
@[simp] theorem State.setPsm_dev (s : State) (p : PsmState) : (s.setPsm p).dev = s.dev := rfl
@[simp] theorem State.setPsm_log (s : State) (p : PsmState) : (s.setPsm p).log = s.log := rfl
@[simp] theorem State.setPsm_out (s : State) (p : PsmState) : (s.setPsm p).out = s.out := rfl
@[simp] theorem State.setPsm_inbox (s : State) (p : PsmState) : (s.setPsm p).inbox = s.inbox := rfl
@[simp] theorem State.setPsm_ended (s : State) (p : PsmState) : (s.setPsm p).ended = s.ended := rfl
@[simp] theorem State.setPsm_bank (s : State) (p : PsmState) : (s.setPsm p).bank = s.bank := rfl
@[simp] theorem State.setPsm_psm (s : State) (p : PsmState) : (s.setPsm p).psm = { s.psm with state := p } := rfl

/-! ### The select level -/

@[simp] theorem State.setCs_par (s : State) (b : Bool) : (s.setCs b).par = s.par := rfl
@[simp] theorem State.setCs_psm (s : State) (b : Bool) : (s.setCs b).psm = s.psm := rfl
@[simp] theorem State.setCs_sud (s : State) (b : Bool) : (s.setCs b).sud = s.sud := rfl
@[simp] theorem State.setCs_snd (s : State) (b : Bool) : (s.setCs b).snd = s.snd := rfl
@[simp] theorem State.setCs_rcv (s : State) (b : Bool) : (s.setCs b).rcv = s.rcv := rfl
@[simp] theorem State.setCs_clk (s : State) (b : Bool) : (s.setCs b).clk = s.clk := rfl
@[simp] theorem State.setCs_irq (s : State) (b : Bool) : (s.setCs b).irq = s.irq := rfl
@[simp] theorem State.setCs_pend (s : State) (b : Bool) : (s.setCs b).pend = s.pend := rfl
@[simp] theorem State.setCs_nextId (s : State) (b : Bool) : (s.setCs b).nextId = s.nextId := rfl
@[simp] theorem State.setCs_dev (s : State) (b : Bool) : (s.setCs b).dev = s.dev := rfl
@[simp] theorem State.setCs_log (s : State) (b : Bool) : (s.setCs b).log = s.log := rfl
@[simp] theorem State.setCs_out (s : State) (b : Bool) : (s.setCs b).out = s.out := rfl
@[simp] theorem State.setCs_inbox (s : State) (b : Bool) : (s.setCs b).inbox = s.inbox := rfl
@[simp] theorem State.setCs_ended (s : State) (b : Bool) : (s.setCs b).ended = s.ended := rfl
@[simp] theorem State.setCs_bank (s : State) (b : Bool) : (s.setCs b).bank = s.bank := rfl
@[simp] theorem State.setCs_cs (s : State) (b : Bool) : (s.setCs b).cs = b := rfl

/-! ### The clock stopped -/

@[simp] theorem clockStop_par (s : State) : (clockStop s).par = s.par := rfl
@[simp] theorem clockStop_psm (s : State) : (clockStop s).psm = s.psm := rfl
@[simp] theorem clockStop_cs (s : State) : (clockStop s).cs = s.cs := rfl
@[simp] theorem clockStop_sud (s : State) : (clockStop s).sud = s.sud := rfl
@[simp] theorem clockStop_snd (s : State) : (clockStop s).snd = s.snd := rfl
@[simp] theorem clockStop_rcv (s : State) : (clockStop s).rcv = s.rcv := rfl
@[simp] theorem clockStop_irq (s : State) : (clockStop s).irq = s.irq := rfl
@[simp] theorem clockStop_pend (s : State) : (clockStop s).pend = s.pend := rfl
@[simp] theorem clockStop_nextId (s : State) : (clockStop s).nextId = s.nextId := rfl
@[simp] theorem clockStop_dev (s : State) : (clockStop s).dev = s.dev := rfl
@[simp] theorem clockStop_log (s : State) : (clockStop s).log = s.log := rfl
@[simp] theorem clockStop_out (s : State) : (clockStop s).out = s.out := rfl
@[simp] theorem clockStop_inbox (s : State) : (clockStop s).inbox = s.inbox := rfl
@[simp] theorem clockStop_ended (s : State) : (clockStop s).ended = s.ended := rfl
@[simp] theorem clockStop_bank (s : State) : (clockStop s).bank = s.bank := rfl
@[simp] theorem clockStop_clk (s : State) : (clockStop s).clk = { s.clk with running := false, elapsed := 0 } := rfl

/-! ### The clock disposed -/

@[simp] theorem clockDispose_par (s : State) : (clockDispose s).par = s.par := rfl
@[simp] theorem clockDispose_psm (s : State) : (clockDispose s).psm = s.psm := rfl
@[simp] theorem clockDispose_cs (s : State) : (clockDispose s).cs = s.cs := rfl
@[simp] theorem clockDispose_sud (s : State) : (clockDispose s).sud = s.sud := rfl
@[simp] theorem clockDispose_snd (s : State) : (clockDispose s).snd = s.snd := rfl
@[simp] theorem clockDispose_rcv (s : State) : (clockDispose s).rcv = s.rcv := rfl
@[simp] theorem clockDispose_irq (s : State) : (clockDispose s).irq = s.irq := rfl
@[simp] theorem clockDispose_pend (s : State) : (clockDispose s).pend = s.pend := rfl
@[simp] theorem clockDispose_nextId (s : State) : (clockDispose s).nextId = s.nextId := rfl
@[simp] theorem clockDispose_dev (s : State) : (clockDispose s).dev = s.dev := rfl
@[simp] theorem clockDispose_log (s : State) : (clockDispose s).log = s.log := rfl
@[simp] theorem clockDispose_out (s : State) : (clockDispose s).out = s.out := rfl
@[simp] theorem clockDispose_inbox (s : State) : (clockDispose s).inbox = s.inbox := rfl
@[simp] theorem clockDispose_ended (s : State) : (clockDispose s).ended = s.ended := rfl
@[simp] theorem clockDispose_bank (s : State) : (clockDispose s).bank = s.bank := rfl
@[simp] theorem clockDispose_clk (s : State) :
    (clockDispose s).clk = { s.clk with running := false, disposed := true, elapsed := 0 } := rfl

/-! ### A subscription -/

@[simp] theorem subscribe_par (s : State) (k : SubKind) : ((subscribe k s).2).par = s.par := rfl
@[simp] theorem subscribe_psm (s : State) (k : SubKind) : ((subscribe k s).2).psm = s.psm := rfl
@[simp] theorem subscribe_cs (s : State) (k : SubKind) : ((subscribe k s).2).cs = s.cs := rfl
@[simp] theorem subscribe_sud (s : State) (k : SubKind) : ((subscribe k s).2).sud = s.sud := rfl
@[simp] theorem subscribe_snd (s : State) (k : SubKind) : ((subscribe k s).2).snd = s.snd := rfl
@[simp] theorem subscribe_rcv (s : State) (k : SubKind) : ((subscribe k s).2).rcv = s.rcv := rfl
@[simp] theorem subscribe_clk (s : State) (k : SubKind) : ((subscribe k s).2).clk = s.clk := rfl
@[simp] theorem subscribe_irq (s : State) (k : SubKind) : ((subscribe k s).2).irq = s.irq := rfl
@[simp] theorem subscribe_dev (s : State) (k : SubKind) : ((subscribe k s).2).dev = s.dev := rfl
@[simp] theorem subscribe_log (s : State) (k : SubKind) : ((subscribe k s).2).log = s.log := rfl
@[simp] theorem subscribe_out (s : State) (k : SubKind) : ((subscribe k s).2).out = s.out := rfl
@[simp] theorem subscribe_inbox (s : State) (k : SubKind) : ((subscribe k s).2).inbox = s.inbox := rfl
@[simp] theorem subscribe_ended (s : State) (k : SubKind) : ((subscribe k s).2).ended = s.ended := rfl
@[simp] theorem subscribe_bank (s : State) (k : SubKind) : ((subscribe k s).2).bank = s.bank := rfl
@[simp] theorem subscribe_id (s : State) (k : SubKind) : (subscribe k s).1 = s.nextId := rfl
@[simp] theorem subscribe_nextId (s : State) (k : SubKind) : (subscribe k s).2.nextId = s.nextId + 1 := rfl
@[simp] theorem subscribe_pend (s : State) (k : SubKind) : (subscribe k s).2.pend = s.pend ++ [⟨s.nextId, k⟩] := rfl

/-! ### A subscription removed -/

@[simp] theorem unsubscribe_par (s : State) (p : Pending) : (unsubscribe p s).par = s.par := rfl
@[simp] theorem unsubscribe_psm (s : State) (p : Pending) : (unsubscribe p s).psm = s.psm := rfl
@[simp] theorem unsubscribe_cs (s : State) (p : Pending) : (unsubscribe p s).cs = s.cs := rfl
@[simp] theorem unsubscribe_sud (s : State) (p : Pending) : (unsubscribe p s).sud = s.sud := rfl
@[simp] theorem unsubscribe_snd (s : State) (p : Pending) : (unsubscribe p s).snd = s.snd := rfl
@[simp] theorem unsubscribe_rcv (s : State) (p : Pending) : (unsubscribe p s).rcv = s.rcv := rfl
@[simp] theorem unsubscribe_clk (s : State) (p : Pending) : (unsubscribe p s).clk = s.clk := rfl
@[simp] theorem unsubscribe_irq (s : State) (p : Pending) : (unsubscribe p s).irq = s.irq := rfl
@[simp] theorem unsubscribe_nextId (s : State) (p : Pending) : (unsubscribe p s).nextId = s.nextId := rfl
@[simp] theorem unsubscribe_dev (s : State) (p : Pending) : (unsubscribe p s).dev = s.dev := rfl
@[simp] theorem unsubscribe_log (s : State) (p : Pending) : (unsubscribe p s).log = s.log := rfl
@[simp] theorem unsubscribe_out (s : State) (p : Pending) : (unsubscribe p s).out = s.out := rfl
@[simp] theorem unsubscribe_inbox (s : State) (p : Pending) : (unsubscribe p s).inbox = s.inbox := rfl
@[simp] theorem unsubscribe_ended (s : State) (p : Pending) : (unsubscribe p s).ended = s.ended := rfl
@[simp] theorem unsubscribe_bank (s : State) (p : Pending) : (unsubscribe p s).bank = s.bank := rfl
@[simp] theorem unsubscribe_pend (s : State) (p : Pending) :
    (unsubscribe p s).pend = s.pend.filter fun x => decide (x ≠ p) := rfl

/-! ### An agent step put first -/

@[simp] theorem State.present_par (s : State) (a : Stimulus) : (s.present a).par = s.par := rfl
@[simp] theorem State.present_psm (s : State) (a : Stimulus) : (s.present a).psm = s.psm := rfl
@[simp] theorem State.present_cs (s : State) (a : Stimulus) : (s.present a).cs = s.cs := rfl
@[simp] theorem State.present_sud (s : State) (a : Stimulus) : (s.present a).sud = s.sud := rfl
@[simp] theorem State.present_snd (s : State) (a : Stimulus) : (s.present a).snd = s.snd := rfl
@[simp] theorem State.present_rcv (s : State) (a : Stimulus) : (s.present a).rcv = s.rcv := rfl
@[simp] theorem State.present_clk (s : State) (a : Stimulus) : (s.present a).clk = s.clk := rfl
@[simp] theorem State.present_irq (s : State) (a : Stimulus) : (s.present a).irq = s.irq := rfl
@[simp] theorem State.present_pend (s : State) (a : Stimulus) : (s.present a).pend = s.pend := rfl
@[simp] theorem State.present_nextId (s : State) (a : Stimulus) : (s.present a).nextId = s.nextId := rfl
@[simp] theorem State.present_dev (s : State) (a : Stimulus) : (s.present a).dev = s.dev := rfl
@[simp] theorem State.present_log (s : State) (a : Stimulus) : (s.present a).log = s.log := rfl
@[simp] theorem State.present_out (s : State) (a : Stimulus) : (s.present a).out = s.out := rfl
@[simp] theorem State.present_bank (s : State) (a : Stimulus) : (s.present a).bank = s.bank := rfl
@[simp] theorem State.present_inbox (s : State) (a : Stimulus) : (s.present a).inbox = a :: s.inbox := rfl
@[simp] theorem State.present_ended (s : State) (a : Stimulus) : (s.present a).ended = s.ended := rfl

/-! ### A queue's bytes -/

@[simp] theorem State.setBytes_par (s : State) (q : QueueId) (bs : List Byte) : (s.setBytes q bs).par = s.par := by
  cases q <;> rfl
@[simp] theorem State.setBytes_psm (s : State) (q : QueueId) (bs : List Byte) : (s.setBytes q bs).psm = s.psm := by
  cases q <;> rfl
@[simp] theorem State.setBytes_cs (s : State) (q : QueueId) (bs : List Byte) : (s.setBytes q bs).cs = s.cs := by
  cases q <;> rfl
@[simp] theorem State.setBytes_clk (s : State) (q : QueueId) (bs : List Byte) : (s.setBytes q bs).clk = s.clk := by
  cases q <;> rfl
@[simp] theorem State.setBytes_irq (s : State) (q : QueueId) (bs : List Byte) : (s.setBytes q bs).irq = s.irq := by
  cases q <;> rfl
@[simp] theorem State.setBytes_pend (s : State) (q : QueueId) (bs : List Byte) : (s.setBytes q bs).pend = s.pend := by
  cases q <;> rfl
@[simp] theorem State.setBytes_nextId (s : State) (q : QueueId) (bs : List Byte) : (s.setBytes q bs).nextId = s.nextId := by
  cases q <;> rfl
@[simp] theorem State.setBytes_dev (s : State) (q : QueueId) (bs : List Byte) : (s.setBytes q bs).dev = s.dev := by
  cases q <;> rfl
@[simp] theorem State.setBytes_log (s : State) (q : QueueId) (bs : List Byte) : (s.setBytes q bs).log = s.log := by
  cases q <;> rfl
@[simp] theorem State.setBytes_out (s : State) (q : QueueId) (bs : List Byte) : (s.setBytes q bs).out = s.out := by
  cases q <;> rfl
@[simp] theorem State.setBytes_inbox (s : State) (q : QueueId) (bs : List Byte) : (s.setBytes q bs).inbox = s.inbox := by
  cases q <;> rfl
@[simp] theorem State.setBytes_ended (s : State) (q : QueueId) (bs : List Byte) : (s.setBytes q bs).ended = s.ended := by
  cases q <;> rfl
@[simp] theorem State.setBytes_bank (s : State) (q : QueueId) (bs : List Byte) : (s.setBytes q bs).bank = s.bank := by
  cases q <;> rfl
@[simp] theorem State.setBytes_queue_self (s : State) (q : QueueId) (bs : List Byte) :
    (s.setBytes q bs).queue q = { s.queue q with bytes := bs } := by
  cases q <;> rfl
theorem State.setBytes_queue_other (s : State) {q r : QueueId} (h : r ≠ q) (bs : List Byte) :
    (s.setBytes q bs).queue r = s.queue r := by
  cases q <;> cases r <;> first | rfl | exact absurd rfl h
@[simp] theorem State.setBytes_cap (s : State) (q r : QueueId) (bs : List Byte) :
    ((s.setBytes q bs).queue r).cap = (s.queue r).cap := by
  cases q <;> cases r <;> rfl
theorem State.setBytes_same (s : State) (q : QueueId) : s.setBytes q (s.queue q).bytes = s := by
  cases q <;> rfl

/-! ### The queues under the other updates -/

@[simp] theorem State.report_queue (s : State) (r : Report) (q : QueueId) : (s.report r).queue q = s.queue q := by
  cases q <;> rfl
@[simp] theorem State.emit_queue (s : State) (o : Output) (q : QueueId) : (s.emit o).queue q = s.queue q := by
  cases q <;> rfl
@[simp] theorem State.result_queue (s : State) (r : Result) (q : QueueId) : (s.result r).queue q = s.queue q := by
  cases q <;> rfl
@[simp] theorem State.setFld_queue (s : State) (f : FieldId) (v : Nat) (q : QueueId) : (s.setFld f v).queue q = s.queue q := by
  cases q <;> rfl
@[simp] theorem State.raw_queue (s : State) (f : FieldId) (v : Nat) (q : QueueId) : (s.raw f v).queue q = s.queue q := by
  cases q <;> rfl
@[simp] theorem State.setBusy_queue (s : State) (b : Bool) (q : QueueId) : (s.setBusy b).queue q = s.queue q := by
  cases q <;> rfl
@[simp] theorem recompute_queue (s : State)  (q : QueueId) : (recompute s).queue q = s.queue q := by
  cases q <;> rfl
@[simp] theorem raiseFlag_queue (s : State) (f : FieldId) (q : QueueId) : (raiseFlag f s).queue q = s.queue q := by
  cases q <;> rfl
@[simp] theorem unsubscribe_queue (s : State) (p : Pending) (q : QueueId) : (unsubscribe p s).queue q = s.queue q := by
  cases q <;> rfl
@[simp] theorem subscribe_queue (s : State) (k : SubKind) (q : QueueId) : ((subscribe k s).2).queue q = s.queue q := by
  cases q <;> rfl

/-! ### A device put at an address, and an address cleared -/

@[simp] theorem attachDevice_dev (a : Nat) (d : Device) (s : State) :
    (attachDevice a d s).dev = keyPut a d (topologyChange s.dev) := rfl
@[simp] theorem attachDevice_par (a : Nat) (d : Device) (s : State) : (attachDevice a d s).par = s.par := rfl
@[simp] theorem attachDevice_bank (a : Nat) (d : Device) (s : State) : (attachDevice a d s).bank = s.bank := rfl
@[simp] theorem attachDevice_psm (a : Nat) (d : Device) (s : State) : (attachDevice a d s).psm = s.psm := rfl
@[simp] theorem attachDevice_cs (a : Nat) (d : Device) (s : State) : (attachDevice a d s).cs = s.cs := rfl
@[simp] theorem attachDevice_sud (a : Nat) (d : Device) (s : State) : (attachDevice a d s).sud = s.sud := rfl
@[simp] theorem attachDevice_snd (a : Nat) (d : Device) (s : State) : (attachDevice a d s).snd = s.snd := rfl
@[simp] theorem attachDevice_rcv (a : Nat) (d : Device) (s : State) : (attachDevice a d s).rcv = s.rcv := rfl
@[simp] theorem attachDevice_clk (a : Nat) (d : Device) (s : State) : (attachDevice a d s).clk = s.clk := rfl
@[simp] theorem attachDevice_irq (a : Nat) (d : Device) (s : State) : (attachDevice a d s).irq = s.irq := rfl
@[simp] theorem attachDevice_pend (a : Nat) (d : Device) (s : State) : (attachDevice a d s).pend = s.pend := rfl
@[simp] theorem attachDevice_nextId (a : Nat) (d : Device) (s : State) : (attachDevice a d s).nextId = s.nextId := rfl
@[simp] theorem attachDevice_log (a : Nat) (d : Device) (s : State) : (attachDevice a d s).log = s.log := rfl
@[simp] theorem attachDevice_out (a : Nat) (d : Device) (s : State) : (attachDevice a d s).out = s.out := rfl
@[simp] theorem attachDevice_inbox (a : Nat) (d : Device) (s : State) : (attachDevice a d s).inbox = s.inbox := rfl
@[simp] theorem attachDevice_ended (a : Nat) (d : Device) (s : State) : (attachDevice a d s).ended = s.ended := rfl

@[simp] theorem detachDevice_dev (a : Nat) (s : State) : (detachDevice a s).dev = topologyChange (keyDrop a s.dev) := rfl
@[simp] theorem detachDevice_par (a : Nat) (s : State) : (detachDevice a s).par = s.par := rfl
@[simp] theorem detachDevice_bank (a : Nat) (s : State) : (detachDevice a s).bank = s.bank := rfl
@[simp] theorem detachDevice_psm (a : Nat) (s : State) : (detachDevice a s).psm = s.psm := rfl
@[simp] theorem detachDevice_cs (a : Nat) (s : State) : (detachDevice a s).cs = s.cs := rfl
@[simp] theorem detachDevice_sud (a : Nat) (s : State) : (detachDevice a s).sud = s.sud := rfl
@[simp] theorem detachDevice_snd (a : Nat) (s : State) : (detachDevice a s).snd = s.snd := rfl
@[simp] theorem detachDevice_rcv (a : Nat) (s : State) : (detachDevice a s).rcv = s.rcv := rfl
@[simp] theorem detachDevice_clk (a : Nat) (s : State) : (detachDevice a s).clk = s.clk := rfl
@[simp] theorem detachDevice_irq (a : Nat) (s : State) : (detachDevice a s).irq = s.irq := rfl
@[simp] theorem detachDevice_pend (a : Nat) (s : State) : (detachDevice a s).pend = s.pend := rfl
@[simp] theorem detachDevice_nextId (a : Nat) (s : State) : (detachDevice a s).nextId = s.nextId := rfl
@[simp] theorem detachDevice_log (a : Nat) (s : State) : (detachDevice a s).log = s.log := rfl
@[simp] theorem detachDevice_out (a : Nat) (s : State) : (detachDevice a s).out = s.out := rfl
@[simp] theorem detachDevice_inbox (a : Nat) (s : State) : (detachDevice a s).inbox = s.inbox := rfl
@[simp] theorem detachDevice_ended (a : Nat) (s : State) : (detachDevice a s).ended = s.ended := rfl

end Sys2Proof.Machine
end

