-- ==== Sys2Proof/Laws/Store.lean ====
section
/-! SUPPORT. The keyed stores: what a read gives after a write, and that every operation keeps the canonical form. -/

namespace Sys2Proof.Machine

variable {α : Type}

theorem keyGet_keyPut_self (k : Nat) (v : α) (m : List (Nat × α)) : keyGet k (keyPut k v m) = some v := by
  induction m with
  | nil => simp [keyPut, keyGet]
  | cons e m ih =>
    obtain ⟨k', v'⟩ := e
    simp only [keyPut]
    split
    · simp [keyGet]
    · split
      · simp [keyGet]
      · rename_i h; simp [keyGet, h, ih]

theorem keyGet_keyPut_other {j k : Nat} (h : j ≠ k) (v : α) (m : List (Nat × α)) :
    keyGet j (keyPut k v m) = keyGet j m := by
  induction m with
  | nil => simp [keyPut, keyGet, h]
  | cons e m ih =>
    obtain ⟨k', v'⟩ := e
    simp only [keyPut]
    split
    · simp [keyGet, h]
    · split
      · rename_i hk; subst hk; simp [keyGet, h]
      · simp [keyGet, ih]

theorem keyGet_keyDrop_self (k : Nat) (m : List (Nat × α)) : keyGet k (keyDrop k m) = none := by
  induction m with
  | nil => rfl
  | cons e m ih =>
    obtain ⟨k', v'⟩ := e
    by_cases h : k' = k
    · simpa [keyDrop, h] using ih
    · have h' : ¬k = k' := fun e => h e.symm
      simpa [keyDrop, h, h', keyGet] using ih

theorem keyGet_keyDrop_other {j k : Nat} (h : j ≠ k) (m : List (Nat × α)) : keyGet j (keyDrop k m) = keyGet j m := by
  induction m with
  | nil => rfl
  | cons e m ih =>
    obtain ⟨k', v'⟩ := e
    by_cases hk : k' = k
    · have hj : ¬j = k' := fun e => h (e.trans hk)
      simpa [keyDrop, hk, keyGet, hj] using (by simpa [keyDrop, h] using ih)
    · simp only [keyDrop, ne_eq, hk, not_false_eq_true, decide_true, List.filter_cons_of_pos, keyGet]
      split
      · rfl
      · simpa [keyDrop] using ih

theorem mem_keyPut {k : Nat} {v : α} {m : List (Nat × α)} {e : Nat × α} (h : e ∈ keyPut k v m) :
    e = (k, v) ∨ e ∈ m := by
  induction m with
  | nil => simpa [keyPut] using h
  | cons e' m ih =>
    obtain ⟨k', v'⟩ := e'
    simp only [keyPut] at h
    split at h
    · simpa using h
    · split at h
      · rcases List.mem_cons.mp h with h | h
        · exact .inl h
        · exact .inr (List.mem_cons_of_mem _ h)
      · rcases List.mem_cons.mp h with h | h
        · exact .inr (h ▸ List.mem_cons_self)
        · exact (ih h).imp id (List.mem_cons_of_mem _)

/-- Setting a key keeps the canonical form. -/
theorem keyWf_keyPut {m : List (Nat × α)} (h : keyWf m = true) (k : Nat) (v : α) : keyWf (keyPut k v m) = true := by
  simp only [keyWf, decide_eq_true_eq] at h ⊢
  induction m with
  | nil => simp [keyPut]
  | cons e m ih =>
    obtain ⟨k', v'⟩ := e
    have hm := List.pairwise_cons.mp h
    simp only [keyPut]
    split
    · rename_i hlt
      refine List.pairwise_cons.mpr ⟨fun e he => ?_, h⟩
      rcases List.mem_cons.mp he with rfl | he
      · exact hlt
      · exact Nat.lt_trans hlt (hm.1 e he)
    · split
      · rename_i hk
        subst hk
        exact List.pairwise_cons.mpr ⟨hm.1, hm.2⟩
      · refine List.pairwise_cons.mpr ⟨fun e he => ?_, ih hm.2⟩
        rcases mem_keyPut he with rfl | he
        · show k' < k
          omega
        · exact hm.1 e he

/-- Dropping a key keeps the canonical form. -/
theorem keyWf_keyDrop {m : List (Nat × α)} (h : keyWf m = true) (k : Nat) : keyWf (keyDrop k m) = true := by
  simp only [keyWf, decide_eq_true_eq] at h ⊢
  exact h.sublist List.filter_sublist

theorem otherGet_otherPut_self (k v : Nat) (m : List (Nat × Nat)) : otherGet k (otherPut k v m) = v := by
  unfold otherPut otherGet
  split
  · rename_i h; simp [keyGet_keyDrop_self, h]
  · simp [keyGet_keyPut_self]

theorem otherGet_otherPut_other {j k : Nat} (h : j ≠ k) (v : Nat) (m : List (Nat × Nat)) :
    otherGet j (otherPut k v m) = otherGet j m := by
  unfold otherPut otherGet
  split
  · simp [keyGet_keyDrop_other h]
  · simp [keyGet_keyPut_other h]

/-- Setting a generic bank's field keeps the canonical form, zero entries included. -/
theorem otherPut_wf {m : List (Nat × Nat)} (h : keyWf m = true) (hz : (m.all fun e => decide (e.2 ≠ 0)) = true)
    (k v : Nat) :
    keyWf (otherPut k v m) = true ∧ ((otherPut k v m).all fun e => decide (e.2 ≠ 0)) = true := by
  unfold otherPut
  split
  · refine ⟨keyWf_keyDrop h k, ?_⟩
    simp only [List.all_eq_true] at hz ⊢
    exact fun e he => hz e (List.mem_of_mem_filter he)
  · rename_i hv
    refine ⟨keyWf_keyPut h k v, ?_⟩
    simp only [List.all_eq_true, decide_eq_true_eq] at hz ⊢
    intro e he
    rcases mem_keyPut he with rfl | he
    · exact hv
    · exact hz e he

theorem userKey_injective {n w n' w' : Nat} (h : userKey n w = userKey n' w') : n = n' ∧ w = w' :=
  Nat.pair_eq_pair.mp h

end Sys2Proof.Machine
end

