-- ==== Sys2Proof/Laws/Fields.lean ====
section
/-! SUPPORT. Reading a field after setting one: the basic law of the bank, for every pair of fields. -/

namespace Sys2Proof.Machine

@[simp] theorem FieldVals.get_set_self (b : FieldVals) (f : FieldId) (v : Nat) : (b.set f v).get f = v := by
  cases f <;> first | rfl | exact otherGet_otherPut_self _ _ _

theorem FieldVals.get_set_other (b : FieldVals) {f g : FieldId} (h : g ≠ f) (v : Nat) :
    (b.set f v).get g = b.get g := by
  cases f with
  | user n w =>
    cases g with
    | user n' w' =>
      refine otherGet_otherPut_other (fun e => h ?_) _ _
      obtain ⟨rfl, rfl⟩ := userKey_injective e
      rfl
    | _ => rfl
  | _ => cases g <;> first | rfl | exact absurd rfl h

@[simp] theorem State.fld_setFld_self (s : State) (f : FieldId) (v : Nat) : (s.setFld f v).fld f = v :=
  FieldVals.get_set_self _ _ _

theorem State.fld_setFld_other (s : State) {f g : FieldId} (h : g ≠ f) (v : Nat) :
    (s.setFld f v).fld g = s.fld g :=
  FieldVals.get_set_other _ h _

@[simp] theorem State.fld_raw_self (s : State) (f : FieldId) (v : Nat) : (s.raw f v).fld f = trunc f.width v :=
  FieldVals.get_set_self _ _ _

theorem State.fld_raw_other (s : State) {f g : FieldId} (h : g ≠ f) (v : Nat) : (s.raw f v).fld g = s.fld g :=
  FieldVals.get_set_other _ h _

/-- A field's value depends on the field values alone. -/
theorem State.fld_eq (s : State) (f : FieldId) : s.fld f = s.bank.val.get f := rfl

/-- Setting a field keeps the canonical form of a generic bank's fields. -/
theorem FieldVals.set_other_wf (b : FieldVals) (f : FieldId) (v : Nat)
    (h : keyWf b.other = true) (hz : (b.other.all fun e => decide (e.2 ≠ 0)) = true) :
    keyWf (b.set f v).other = true ∧ ((b.set f v).other.all fun e => decide (e.2 ≠ 0)) = true := by
  cases f <;> first | exact ⟨h, hz⟩ | exact otherPut_wf h hz _ _

/-- The aggregator's formula written out, as R211 gives it. -/
theorem aggregate_eq (b : FieldVals) :
    aggregate b = (b.ie != 0 && (b.oscOkIrq != 0 && b.oscOkIe != 0 || b.rcvDavIrq != 0 && b.rcvDavIe != 0 ||
      b.sndBavIrq != 0 && b.sndBavIe != 0 || b.condetIrq != 0 && b.condetIe != 0 ||
      b.frameIrq != 0 && b.frameIe != 0 || b.hxfrdnIrq != 0 && b.hxfrdnIe != 0)) := by
  simp [aggregate, aggregateOver, irqPairs, FieldVals.bit, FieldVals.get, Bool.or_assoc]

/-- The write-one-to-clear law on a 1-bit flag (R153). -/
theorem w1cNew_bit (old x : Nat) (ho : old < 2) (hx : x < 2) : w1cNew 1 old x = if x = 1 then 0 else old := by
  interval_cases old <;> interval_cases x <;> rfl

/-- A bus-side write never sets a bit of a write-one-to-clear field (R153, R180). -/
theorem w1cNew_le (width old x : Nat) : w1cNew width old x ≤ old := Nat.and_le_left

/-- The part of a written value that belongs to a field inside the register (R151). -/
theorem fieldPart_eq {W : Nat} {f : Field} (h : f.offset + f.width ≤ W) (v : Nat) :
    fieldPart W f v = v / 2 ^ f.offset % 2 ^ f.width := by
  refine Nat.eq_of_testBit_eq fun i => ?_
  simp only [fieldPart, mask, trunc, Nat.and_two_pow_sub_one_eq_mod, Nat.testBit_mod_two_pow, Nat.testBit_shiftRight,
    Nat.testBit_div_two_pow]
  by_cases hi : i < f.width
  · simp [hi, show i + f.offset < W by omega, Nat.add_comm f.offset]
  · simp [hi]

end Sys2Proof.Machine
end

