-- ==== Sys2Proof/Laws/Queue.lean ====
section
/-! SUPPORT. The queue operations: what each can do, said once (R253 to R262). -/

namespace Sys2Proof.Machine

@[simp] theorem enqN_par (s : State) (q : QueueId) (bs : List Byte) : (enqN q bs s).par = s.par := by
  unfold enqN; dsimp only; split <;> [skip; split] <;> simp
@[simp] theorem enqN_psm (s : State) (q : QueueId) (bs : List Byte) : (enqN q bs s).psm = s.psm := by
  unfold enqN; dsimp only; split <;> [skip; split] <;> simp
@[simp] theorem enqN_cs (s : State) (q : QueueId) (bs : List Byte) : (enqN q bs s).cs = s.cs := by
  unfold enqN; dsimp only; split <;> [skip; split] <;> simp
@[simp] theorem enqN_clk (s : State) (q : QueueId) (bs : List Byte) : (enqN q bs s).clk = s.clk := by
  unfold enqN; dsimp only; split <;> [skip; split] <;> simp
@[simp] theorem enqN_irq (s : State) (q : QueueId) (bs : List Byte) : (enqN q bs s).irq = s.irq := by
  unfold enqN; dsimp only; split <;> [skip; split] <;> simp
@[simp] theorem enqN_pend (s : State) (q : QueueId) (bs : List Byte) : (enqN q bs s).pend = s.pend := by
  unfold enqN; dsimp only; split <;> [skip; split] <;> simp
@[simp] theorem enqN_nextId (s : State) (q : QueueId) (bs : List Byte) : (enqN q bs s).nextId = s.nextId := by
  unfold enqN; dsimp only; split <;> [skip; split] <;> simp
@[simp] theorem enqN_dev (s : State) (q : QueueId) (bs : List Byte) : (enqN q bs s).dev = s.dev := by
  unfold enqN; dsimp only; split <;> [skip; split] <;> simp
@[simp] theorem enqN_out (s : State) (q : QueueId) (bs : List Byte) : (enqN q bs s).out = s.out := by
  unfold enqN; dsimp only; split <;> [skip; split] <;> simp
@[simp] theorem enqN_inbox (s : State) (q : QueueId) (bs : List Byte) : (enqN q bs s).inbox = s.inbox := by
  unfold enqN; dsimp only; split <;> [skip; split] <;> simp
@[simp] theorem enqN_bank (s : State) (q : QueueId) (bs : List Byte) : (enqN q bs s).bank = s.bank := by
  unfold enqN; dsimp only; split <;> [skip; split] <;> simp

/-- What a queue holds after a range enqueue: the newest bytes up to its capacity (R254). -/
theorem enqN_bytes (s : State) (q : QueueId) (bs : List Byte) :
    ((enqN q bs s).queue q).bytes = match (s.queue q).cap with
      | none => (s.queue q).bytes ++ bs
      | some c => newest c ((s.queue q).bytes ++ bs) := by
  unfold enqN
  cases h : (s.queue q).cap with
  | none => simp
  | some c =>
    dsimp only
    split
    · simp
    · rename_i hc
      have h0 : ((s.queue q).bytes ++ bs).length - c = 0 := by omega
      simp [newest] at *
      simp [show (s.queue q).bytes.length + bs.length - c = 0 by omega]

/-- The reports of a range enqueue: one, with the number dropped, exactly when something is dropped (R254). -/
theorem enqN_log (s : State) (q : QueueId) (bs : List Byte) :
    (enqN q bs s).log = s.log ++ match (s.queue q).cap with
      | none => []
      | some c => if c < ((s.queue q).bytes ++ bs).length
          then [.fifoOverflow q (((s.queue q).bytes ++ bs).length - c)] else [] := by
  unfold enqN
  cases (s.queue q).cap with
  | none => simp
  | some c => dsimp only; split <;> simp [*]

@[simp] theorem enqN_cap (s : State) (q r : QueueId) (bs : List Byte) :
    ((enqN q bs s).queue r).cap = (s.queue r).cap := by
  unfold enqN; dsimp only; split <;> [skip; split] <;> simp

theorem enqN_other (s : State) {q r : QueueId} (h : r ≠ q) (bs : List Byte) :
    (enqN q bs s).queue r = s.queue r := by
  unfold enqN; dsimp only; split <;> [skip; split] <;> simp [State.setBytes_queue_other, h]

/-- `|last(n, q)| = min n |q|` (R12). -/
@[simp] theorem newest_length {α : Type} (n : Nat) (bs : List α) : (newest n bs).length = min n bs.length := by
  simp [newest]; omega

/-- Nothing is dropped from a sequence that fits. -/
theorem newest_of_le {α : Type} {n : Nat} {bs : List α} (h : bs.length ≤ n) : newest n bs = bs := by
  simp [newest, Nat.sub_eq_zero_of_le h]

/-- The newest of the newest followed by more is the newest of all (R262). -/
theorem newest_append {α : Type} (n : Nat) (xs ys : List α) : newest n (newest n xs ++ ys) = newest n (xs ++ ys) := by
  unfold newest
  rw [List.drop_append, List.drop_append, List.drop_drop]
  simp only [List.length_drop, List.length_append]
  congr 1
  · congr 1; omega
  · congr 1; omega

/-- A queue holds no more than its capacity (R47, R251). -/
def withinCap (q : Queue) : Prop := ∀ c, q.cap = some c → q.bytes.length ≤ c

theorem enqN_withinCap (s : State) (q r : QueueId) (bs : List Byte) (h : ∀ r, withinCap (s.queue r)) :
    withinCap ((enqN q bs s).queue r) := by
  by_cases hr : r = q
  · subst hr
    intro c hc
    rw [enqN_cap] at hc
    rw [enqN_bytes, hc]
    simp
  · rw [enqN_other s hr]
    exact h r

theorem setBytes_withinCap (s : State) (q r : QueueId) (bs : List Byte) (h : ∀ r, withinCap (s.queue r))
    (hb : bs.length ≤ (s.queue q).bytes.length) : withinCap ((s.setBytes q bs).queue r) := by
  by_cases hr : r = q
  · subst hr
    intro c hc
    rw [State.setBytes_cap] at hc
    simpa using Nat.le_trans hb (h r c hc)
  · rw [State.setBytes_queue_other s hr]
    exact h r

/-- Dequeue-one: the oldest byte, or zero with a report (R257). -/
theorem deq1_nil {s : State} {q : QueueId} (h : (s.queue q).bytes = []) : deq1 q s = (0, s.report (.fifoUnderflow q)) := by
  simp [deq1, h]

theorem deq1_cons {s : State} {q : QueueId} {b : Byte} {bs : List Byte} (h : (s.queue q).bytes = b :: bs) :
    deq1 q s = (b, s.setBytes q bs) := by
  simp [deq1, h]

@[simp] theorem deq1_par (s : State) (q : QueueId) : ((deq1 q s).2).par = s.par := by
  unfold deq1; split <;> simp
@[simp] theorem deq1_psm (s : State) (q : QueueId) : ((deq1 q s).2).psm = s.psm := by
  unfold deq1; split <;> simp
@[simp] theorem deq1_cs (s : State) (q : QueueId) : ((deq1 q s).2).cs = s.cs := by
  unfold deq1; split <;> simp
@[simp] theorem deq1_clk (s : State) (q : QueueId) : ((deq1 q s).2).clk = s.clk := by
  unfold deq1; split <;> simp
@[simp] theorem deq1_irq (s : State) (q : QueueId) : ((deq1 q s).2).irq = s.irq := by
  unfold deq1; split <;> simp
@[simp] theorem deq1_pend (s : State) (q : QueueId) : ((deq1 q s).2).pend = s.pend := by
  unfold deq1; split <;> simp
@[simp] theorem deq1_nextId (s : State) (q : QueueId) : ((deq1 q s).2).nextId = s.nextId := by
  unfold deq1; split <;> simp
@[simp] theorem deq1_dev (s : State) (q : QueueId) : ((deq1 q s).2).dev = s.dev := by
  unfold deq1; split <;> simp
@[simp] theorem deq1_out (s : State) (q : QueueId) : ((deq1 q s).2).out = s.out := by
  unfold deq1; split <;> simp
@[simp] theorem deq1_inbox (s : State) (q : QueueId) : ((deq1 q s).2).inbox = s.inbox := by
  unfold deq1; split <;> simp
@[simp] theorem deq1_bank (s : State) (q : QueueId) : ((deq1 q s).2).bank = s.bank := by
  unfold deq1; split <;> simp

@[simp] theorem deq1_cap (s : State) (q r : QueueId) : (((deq1 q s).2).queue r).cap = (s.queue r).cap := by
  unfold deq1; split <;> simp

theorem deq1_log (s : State) (q : QueueId) :
    (deq1 q s).2.log = s.log ++ if (s.queue q).bytes = [] then [.fifoUnderflow q] else [] := by
  unfold deq1; split <;> simp [*]

theorem deq1_withinCap (s : State) (q r : QueueId) (h : ∀ r, withinCap (s.queue r)) :
    withinCap (((deq1 q s).2).queue r) := by
  unfold deq1
  split
  · simpa using h r
  · rename_i b bs hb
    exact setBytes_withinCap s q r bs h (by simp [hb])

end Sys2Proof.Machine
end

