-- ==== Sys2Proof/Laws/Access.lean ====
section
/-! SUPPORT. What no queue operation, flag, trigger or completion changes, said once per shared operation: the parameters,
the protocol machine, the select level, the topology, the schedule, the guard, the clock's constants; and what only grows:
the log, the outputs, the identifiers. -/

namespace Sys2Proof.Machine

/-- `t` comes from `s` by an operation inside a step: what is constant is the same, what is append-only has grown, and a
subscription that is new has an identifier that was not issued before. The clock keeps its rate and callback, and once
disposed it stays so (R226, R230). -/
structure Grows (s t : State) : Prop where
  par      : t.par = s.par
  inbox    : t.inbox = s.inbox
  ended    : t.ended = s.ended
  callback : t.clk.callback = s.clk.callback
  rate     : t.clk.rate = s.clk.rate
  gone     : s.clk.disposed = true → t.clk.disposed = true
  caps     : ∀ q, (t.queue q).cap = (s.queue q).cap
  log      : s.log <+: t.log
  out      : s.out <+: t.out
  nextId   : s.nextId ≤ t.nextId
  fresh    : ∀ p ∈ t.pend, p ∈ s.pend ∨ (s.nextId ≤ p.id ∧ p.id < t.nextId)

/-- Nothing happened to the frame and the topology, and the clock was not disposed. -/
structure Steady (s t : State) : Prop where
  psm      : t.psm = s.psm
  cs       : t.cs = s.cs
  dev      : t.dev = s.dev
  disposed : t.clk.disposed = s.clk.disposed

/-- The guard is as it was and the fields stay within their widths: what holds of everything inside a bank access. -/
structure Inner (s t : State) : Prop where
  busy    : t.bank.busy = s.bank.busy
  bounded : s.bounded → t.bounded

/-- What holds of every shared operation that the exemplar's hooks and the agents' steps use. -/
structure Within (s t : State) : Prop extends Grows s t, Steady s t, Inner s t

theorem Grows.refl (s : State) : Grows s s :=
  ⟨rfl, rfl, rfl, rfl, rfl, id, fun _ => rfl, List.prefix_rfl, List.prefix_rfl, Nat.le_refl _, fun _ h => .inl h⟩

theorem Steady.refl (s : State) : Steady s s := ⟨rfl, rfl, rfl, rfl⟩

theorem Inner.refl (s : State) : Inner s s := ⟨rfl, id⟩

theorem Within.refl (s : State) : Within s s := ⟨Grows.refl s, Steady.refl s, Inner.refl s⟩

theorem Grows.trans {s t u : State} (h : Grows s t) (k : Grows t u) : Grows s u where
  par := k.par.trans h.par
  inbox := k.inbox.trans h.inbox
  ended := k.ended.trans h.ended
  callback := k.callback.trans h.callback
  rate := k.rate.trans h.rate
  gone := k.gone ∘ h.gone
  caps := fun q => (k.caps q).trans (h.caps q)
  log := h.log.trans k.log
  out := h.out.trans k.out
  nextId := Nat.le_trans h.nextId k.nextId
  fresh := by
    intro p hp
    rcases k.fresh p hp with hp | ⟨h1, h2⟩
    · exact (h.fresh p hp).imp id fun ⟨h1, h2⟩ => ⟨h1, Nat.lt_of_lt_of_le h2 k.nextId⟩
    · exact .inr ⟨Nat.le_trans h.nextId h1, h2⟩

theorem Steady.trans {s t u : State} (h : Steady s t) (k : Steady t u) : Steady s u :=
  ⟨k.psm.trans h.psm, k.cs.trans h.cs, k.dev.trans h.dev, k.disposed.trans h.disposed⟩

theorem Inner.trans {s t u : State} (h : Inner s t) (k : Inner t u) : Inner s u :=
  ⟨k.busy.trans h.busy, k.bounded ∘ h.bounded⟩

theorem Within.trans {s t u : State} (h : Within s t) (k : Within t u) : Within s u :=
  ⟨h.toGrows.trans k.toGrows, h.toSteady.trans k.toSteady, h.toInner.trans k.toInner⟩

theorem within_report (s : State) (r : Report) : Within s (s.report r) :=
  { Within.refl s with log := List.prefix_append _ _ }

theorem within_emit (s : State) (o : Output) : Within s (s.emit o) :=
  { Within.refl s with out := List.prefix_append _ _ }

theorem within_result (s : State) (r : Result) : Within s (s.result r) := within_emit s _

theorem within_raw (s : State) (f : FieldId) (v : Nat) : Within s (s.raw f v) :=
  { Within.refl s with
    bounded := by
      intro h g
      by_cases hg : g = f
      · subst hg
        rw [State.fld_raw_self]
        exact Nat.mod_lt _ (Nat.two_pow_pos _)
      · rw [State.fld_raw_other s hg]
        exact h g }

theorem within_setLine (s : State) (b : Bool) : Within s (setLine b s) :=
  { Within.refl s with out := List.prefix_append _ _ }

theorem within_recompute (s : State) : Within s (recompute s) := within_setLine s _

theorem within_raiseFlag (s : State) (f : FieldId) : Within s (raiseFlag f s) :=
  (within_raw s f 1).trans (within_recompute _)

theorem within_setBytes (s : State) (q : QueueId) (bs : List Byte) : Within s (s.setBytes q bs) := by
  cases q <;> exact { Within.refl s with caps := fun q => by cases q <;> rfl }

theorem within_enqN (s : State) (q : QueueId) (bs : List Byte) : Within s (enqN q bs s) := by
  unfold enqN
  dsimp only
  split
  · exact within_setBytes s q _
  · split
    · exact (within_setBytes s q _).trans (within_report _ _)
    · exact within_setBytes s q _

theorem within_deq1 (s : State) (q : QueueId) : Within s (deq1 q s).2 := by
  unfold deq1
  split
  · exact within_report s _
  · exact within_setBytes s q _

theorem within_clockStart (s : State) : Within s (clockStart s) := by
  unfold clockStart
  split
  · exact Within.refl s
  · exact { Within.refl s with }

theorem within_clockStop (s : State) : Within s (clockStop s) := { Within.refl s with }

theorem within_subscribe (s : State) (k : SubKind) : Within s (subscribe k s).2 :=
  { Within.refl s with
    nextId := Nat.le_succ _
    fresh := by
      intro p hp
      rcases List.mem_append.1 hp with hp | hp
      · exact .inl hp
      · obtain rfl := List.mem_singleton.1 hp
        exact .inr ⟨Nat.le_refl _, Nat.lt_succ_self _⟩ }

theorem within_unsubscribe (s : State) (p : Pending) : Within s (unsubscribe p s) :=
  { Within.refl s with fresh := fun _ h => .inl (List.mem_filter.1 h).1 }

theorem within_transferDone (s : State) : Within s (transferDone s) := within_raiseFlag s _

theorem within_clockTick (s : State) : Within s (clockTick s) := by
  have h : Within s { s with clk := { s.clk with elapsed := 0 } } := { Within.refl s with }
  unfold clockTick
  cases s.clk.callback
  exact h.trans (within_raiseFlag _ _)

theorem within_absentDevice (s : State) : Within s (absentDevice s) :=
  (within_report s _).trans (within_transferDone _)

theorem within_setupTransaction (d : Device) (s : State) : Within s (setupTransaction d s) := by
  unfold setupTransaction
  dsimp only
  split
  · exact (within_setBytes s _ _).trans (within_report _ _)
  · exact ((within_setBytes s _ _).trans (within_subscribe _ _)).trans (within_emit _ _)

theorem within_reportMismatch (n k : Nat) (s : State) : Within s (reportMismatch n k s) := by
  unfold reportMismatch
  split
  · exact within_report s _
  · exact Within.refl s

theorem within_deliver (e : Endpoint) (n : Nat) (s : State) : Within s (deliver e n s) :=
  (within_setBytes s .snd _).trans (within_emit _ _)

theorem within_bulkOutFlags (s : State) : Within s (bulkOutFlags s) := by
  unfold bulkOutFlags
  split
  · exact (within_raw s _ _).trans (within_raw _ _ _)
  · exact within_raw s _ _

theorem within_bulkOut (e : Endpoint) (s : State) : Within s (bulkOut e s) :=
  (((within_reportMismatch _ _ s).trans (within_deliver e _ _)).trans (within_bulkOutFlags _)).trans (within_recompute _)

theorem within_bulkIn (eo : Option Endpoint) (s : State) : Within s (bulkIn eo s) := by
  cases eo with
  | none => exact within_transferDone s
  | some e => exact (within_subscribe s _).trans (within_emit _ _)

theorem within_setupRequest (d : Device) (ep : BitVec 4) (s : State) : Within s (setupRequest d ep s) := by
  unfold setupRequest
  split
  · exact within_report s _
  · exact within_setupTransaction d s

theorem within_outRequest (d : Device) (ep : BitVec 4) (s : State) : Within s (outRequest d ep s) := by
  unfold outRequest
  split
  · exact within_transferDone s
  · split
    · exact (within_report s _).trans (within_transferDone _)
    · exact within_bulkOut _ s

theorem within_inRequest (d : Device) (ep : BitVec 4) (s : State) : Within s (inRequest d ep s) := by
  unfold inRequest
  split
  · exact within_bulkIn _ s
  · split
    · exact (within_report s _).trans (within_bulkIn _ _)
    · exact within_bulkIn _ s

theorem within_request (f : Device → State → State) (hf : ∀ d s, Within s (f d s)) (s : State) :
    Within s (request f s) := by
  unfold request
  split
  · exact within_absentDevice s
  · exact hf _ s

theorem within_transferTrigger (v : Byte) (s : State) : Within s (transferTrigger v s) := by
  refine within_request _ (fun d s => ?_) s
  cases decodeTransfer v with
  | setup ep => exact within_setupRequest d ep s
  | hs => exact within_transferDone s
  | out ep => exact within_outRequest d ep s
  | inn ep => exact within_inRequest d ep s

theorem within_complete (p : Pending) (bytes : List Byte) (s : State) : Within s (complete p bytes s) := by
  have h := (within_unsubscribe s p).trans (within_enqN _ .rcv bytes)
  refine Within.trans ?_ (within_raiseFlag _ _)
  split
  · exact h
  · exact h.trans (within_raw _ _ _)

theorem within_innerAccess (offset : Int) (s : State) : Within s (innerAccess offset s) := within_report s _

end Sys2Proof.Machine
end

