-- ==== Sys2Proof/Laws/Events.lean ====
section
/-! SUPPORT. What the shared operations of events can do, said once each: the recompute and the raising of a flag as the
formula of R154 written out, the clock's three commands, the tick, and a subscription. -/

namespace Sys2Proof.Machine

/-! ### Other field values -/

@[simp] theorem State.withVal_bank (s : State) (b : FieldVals) : (s.withVal b).bank = { s.bank with val := b } := rfl
@[simp] theorem State.withVal_par (s : State) (b : FieldVals) : (s.withVal b).par = s.par := rfl
@[simp] theorem State.withVal_psm (s : State) (b : FieldVals) : (s.withVal b).psm = s.psm := rfl
@[simp] theorem State.withVal_cs (s : State) (b : FieldVals) : (s.withVal b).cs = s.cs := rfl
@[simp] theorem State.withVal_sud (s : State) (b : FieldVals) : (s.withVal b).sud = s.sud := rfl
@[simp] theorem State.withVal_snd (s : State) (b : FieldVals) : (s.withVal b).snd = s.snd := rfl
@[simp] theorem State.withVal_rcv (s : State) (b : FieldVals) : (s.withVal b).rcv = s.rcv := rfl
@[simp] theorem State.withVal_clk (s : State) (b : FieldVals) : (s.withVal b).clk = s.clk := rfl
@[simp] theorem State.withVal_irq (s : State) (b : FieldVals) : (s.withVal b).irq = s.irq := rfl
@[simp] theorem State.withVal_pend (s : State) (b : FieldVals) : (s.withVal b).pend = s.pend := rfl
@[simp] theorem State.withVal_nextId (s : State) (b : FieldVals) : (s.withVal b).nextId = s.nextId := rfl
@[simp] theorem State.withVal_dev (s : State) (b : FieldVals) : (s.withVal b).dev = s.dev := rfl
@[simp] theorem State.withVal_log (s : State) (b : FieldVals) : (s.withVal b).log = s.log := rfl
@[simp] theorem State.withVal_out (s : State) (b : FieldVals) : (s.withVal b).out = s.out := rfl
@[simp] theorem State.withVal_inbox (s : State) (b : FieldVals) : (s.withVal b).inbox = s.inbox := rfl

/-! ### The line driven -/

@[simp] theorem State.driven_bank (s : State) (n : Nat) : (s.driven n).bank = s.bank := rfl
@[simp] theorem State.driven_par (s : State) (n : Nat) : (s.driven n).par = s.par := rfl
@[simp] theorem State.driven_psm (s : State) (n : Nat) : (s.driven n).psm = s.psm := rfl
@[simp] theorem State.driven_cs (s : State) (n : Nat) : (s.driven n).cs = s.cs := rfl
@[simp] theorem State.driven_sud (s : State) (n : Nat) : (s.driven n).sud = s.sud := rfl
@[simp] theorem State.driven_snd (s : State) (n : Nat) : (s.driven n).snd = s.snd := rfl
@[simp] theorem State.driven_rcv (s : State) (n : Nat) : (s.driven n).rcv = s.rcv := rfl
@[simp] theorem State.driven_clk (s : State) (n : Nat) : (s.driven n).clk = s.clk := rfl
@[simp] theorem State.driven_irq (s : State) (n : Nat) : (s.driven n).irq = lineFormula s.bank.val := rfl
@[simp] theorem State.driven_pend (s : State) (n : Nat) : (s.driven n).pend = s.pend := rfl
@[simp] theorem State.driven_nextId (s : State) (n : Nat) : (s.driven n).nextId = s.nextId := rfl
@[simp] theorem State.driven_dev (s : State) (n : Nat) : (s.driven n).dev = s.dev := rfl
@[simp] theorem State.driven_log (s : State) (n : Nat) : (s.driven n).log = s.log := rfl
@[simp] theorem State.driven_out (s : State) (n : Nat) :
    (s.driven n).out = s.out ++ List.replicate n (.lineSet (lineFormula s.bank.val)) := rfl
@[simp] theorem State.driven_inbox (s : State) (n : Nat) : (s.driven n).inbox = s.inbox := rfl

/-! ### The shared operations -/

/-- The recompute drives the line to the formula written out (R211). -/
theorem recompute_eq (s : State) : recompute s = s.driven 1 := by
  simp [recompute, setLine, State.emit, State.driven, aggregate_eq, lineFormula]

/-- Raising a flag sets it and drives the line once (R390). -/
theorem raiseFlag_eq (f : FieldId) (s : State) :
    raiseFlag f s = (s.withVal (s.bank.val.set f (trunc f.width 1))).driven 1 := by
  rw [raiseFlag, recompute_eq]
  rfl

/-- The acknowledge stores the cleared flag and drives the line once (R393). -/
theorem acknowledge_eq (f : FieldId) (x : Nat) (s : State) :
    acknowledge f x s = (s.withVal (s.bank.val.set f (w1cNew f.width (s.bank.val.get f) x))).driven 1 := by
  rw [acknowledge, recompute_eq]
  rfl

/-- Driving the line twice is driving it once more: the formula depends on the fields alone. -/
theorem driven_driven (s : State) (m n : Nat) : (s.driven m).driven n = s.driven (m + n) := by
  simp [State.driven]

/-- A frame tick (R324). -/
theorem frameTick_eq (s : State) : frameTick s = (s.withVal { s.bank.val with frameIrq := 1 }).driven 1 :=
  raiseFlag_eq .frameIrq s

/-- A tick of the clock (R231). -/
theorem clockTick_eq (s : State) : clockTick s =
    (State.withVal { s with clk := { s.clk with elapsed := 0 } } { s.bank.val with frameIrq := 1 }).driven 1 := by
  rw [clockTick]
  cases s.clk.callback
  exact frameTick_eq _

/-- The completion of a request (R327, R329). -/
theorem transferDone_eq (s : State) : transferDone s = (s.withVal { s.bank.val with hxfrdnIrq := 1 }).driven 1 :=
  raiseFlag_eq .hxfrdnIrq s

theorem clockStart_of_idle {s : State} (hd : s.clk.disposed = false) (hr : s.clk.running = false) :
    clockStart s = { s with clk := { s.clk with running := true, elapsed := 0 } } := by
  simp [clockStart, hd, hr]

theorem clockStart_of_running {s : State} (hr : s.clk.running = true) : clockStart s = s := by
  simp [clockStart, hr]

theorem clockStart_of_disposed {s : State} (hd : s.clk.disposed = true) : clockStart s = s := by
  simp [clockStart, hd]

theorem clockEnabled_iff (s : State) : clockEnabled s = true ↔ s.clk.running = true ∧ s.clk.disposed = false := by
  simp [clockEnabled]

/-- A subscription is pending under the identifier it was given (R51). -/
theorem subscribe_mem (k : SubKind) (s : State) : ⟨(subscribe k s).1, k⟩ ∈ (subscribe k s).2.pend := by
  simp [subscribe]

/-- Once unsubscribed, a subscription is pending no more (R338). -/
theorem unsubscribe_not_mem (p : Pending) (s : State) : p ∉ (unsubscribe p s).pend := by
  simp [unsubscribe]

end Sys2Proof.Machine
end

