-- ==== Sys2Proof/Laws/Hooks.lean ====
section
/-! SUPPORT. What a hook can do, said once for every hook (R33, R183) and once for each of the exemplar's (R55 to R67), and
what a bank access keeps because of it (R172, R176). -/

namespace Sys2Proof.Machine

/-! ### Every hook -/

/-- What every call keeps, every hook keeps. -/
theorem runHook_induct {P : State → Prop} (hc : ∀ c x, P x.state → P (runCall c x).state) (h : Hook) :
    ∀ x : HookRun, P x.state → P (runHook h x).state := by
  induction h with
  | skip => exact fun _ hx => hx
  | call c => exact hc c
  | seq a b iha ihb => exact fun x hx => ihb _ (iha x hx)
  | ite e a b iha ihb =>
    intro x hx
    unfold runHook
    split
    · exact iha x hx
    · exact ihb x hx
  | rep e a ih =>
    intro x hx
    unfold runHook
    generalize evalExpr x e = n
    induction n generalizing x with
    | zero => exact hx
    | succ n ihn => exact ihn _ (ih x hx)

/-- A call on the rest of the state is one of the shared operations: it is `Within`, unless it is a call on the frame, the
topology, or the disposal of the clock. -/
theorem within_runCall {c : HookCall} (x : HookRun) (hk : c.keepsFrame = true) (ha : ∀ a d, c ≠ .attach a d)
    (hd : ∀ a, c ≠ .detach a) (hv : c ≠ .vcDispose) : Within x.state (runCall c x).state := by
  cases c with
  | raw f e => exact within_raw _ f _
  | enq1 q e => exact within_enqN _ q _
  | enqN q k => exact within_enqN _ q _
  | deq1 q k => exact within_deq1 _ q
  | deqN q n k => exact within_setBytes _ q _
  | deqAll q k => exact within_setBytes _ q _
  | clear q => exact within_setBytes _ q _
  | recompute => exact within_recompute _
  | line e => exact within_setLine _ _
  | vcStart => exact within_clockStart _
  | vcStop => exact within_clockStop _
  | transfer e => exact within_transferTrigger _ _
  | setup d => exact within_setupTransaction d _
  | bulkOut e => exact within_bulkOut e _
  | bulkIn eo => exact within_bulkIn eo _
  | writeData e k => exact within_emit _ _
  | subscribe kind k => exact within_subscribe _ kind
  | unsubscribe id kind => exact within_unsubscribe _ _
  | report r => exact within_report _ r
  | bankRead offset width k => exact within_innerAccess offset _
  | bankWrite offset width e => exact within_innerAccess offset _
  | setNum k e => exact Within.refl _
  | push k e => exact Within.refl _
  | drop k => exact Within.refl _
  | attach a d => exact absurd rfl (ha a d)
  | detach a => exact absurd rfl (hd a)
  | vcDispose => exact absurd rfl hv
  | _ => exact nomatch hk

/-- One call leaves the constants, the guard and the widths alone, and what is append-only grows. -/
theorem grows_runCall (c : HookCall) (x : HookRun) :
    Grows x.state (runCall c x).state ∧ Inner x.state (runCall c x).state := by
  have hw : ∀ {t}, Within x.state t → Grows x.state t ∧ Inner x.state t := fun h => ⟨h.toGrows, h.toInner⟩
  cases c with
  | command e =>
    dsimp only [runCall, HookRun.on, command]
    split <;> exact ⟨{ Grows.refl _ with }, { Inner.refl _ with }⟩
  | vcDispose => exact ⟨{ Grows.refl _ with gone := fun _ => rfl }, { Inner.refl _ with }⟩
  | frameEnd | psmReset | select | attach | detach =>
    exact ⟨{ Grows.refl _ with caps := fun q => by cases q <;> rfl }, { Inner.refl _ with }⟩
  | _ => exact hw (within_runCall x rfl nofun nofun nofun)

/-- A hook leaves the constants, the guard and the widths alone, and what is append-only grows. -/
theorem grows_runHook (h : Hook) (x : HookRun) :
    Grows x.state (runHook h x).state ∧ Inner x.state (runHook h x).state :=
  runHook_induct (P := fun t => Grows x.state t ∧ Inner x.state t)
    (fun c y hy => ⟨hy.1.trans (grows_runCall c y).1, hy.2.trans (grows_runCall c y).2⟩) h x
    ⟨Grows.refl _, Inner.refl _⟩

/-- A frame goes on: the protocol machine and the select level are as they were. -/
structure Framed (s t : State) : Prop where
  psm : t.psm = s.psm
  cs  : t.cs = s.cs

theorem Framed.refl (s : State) : Framed s s := ⟨rfl, rfl⟩

theorem Framed.trans {s t u : State} (h : Framed s t) (k : Framed t u) : Framed s u :=
  ⟨k.psm.trans h.psm, k.cs.trans h.cs⟩

theorem Within.framed {s t : State} (h : Within s t) : Framed s t := ⟨h.psm, h.cs⟩

/-- A call that lets a frame go on leaves it alone. -/
theorem framed_runCall {c : HookCall} (hc : c.keepsFrame = true) (x : HookRun) : Framed x.state (runCall c x).state := by
  cases c with
  | attach | detach | vcDispose => exact ⟨rfl, rfl⟩
  | _ => exact (within_runCall x hc nofun nofun nofun).framed

/-- A hook that lets a frame go on leaves it alone. -/
theorem framed_runHook (h : Hook) (hk : h.keepsFrame = true) : ∀ x : HookRun, Framed x.state (runHook h x).state := by
  induction h with
  | skip => exact fun x => Framed.refl x.state
  | call c => exact framed_runCall hk
  | seq a b iha ihb =>
    simp only [Hook.keepsFrame, Bool.and_eq_true] at hk
    exact fun x => (iha hk.1 x).trans (ihb hk.2 _)
  | ite e a b iha ihb =>
    simp only [Hook.keepsFrame, Bool.and_eq_true] at hk
    intro x
    unfold runHook
    split
    · exact iha hk.1 x
    · exact ihb hk.2 x
  | rep e a ih =>
    intro x
    unfold runHook
    generalize evalExpr x e = n
    induction n generalizing x with
    | zero => exact Framed.refl x.state
    | succ n ihn => exact (ih hk x).trans (ihn _)

/-! ### The exemplar's hooks -/

@[simp] theorem callProvider_dequeue (q : QueueId) (stored : Nat) (s : State) :
    callProvider (dequeueProvider q) stored s = ((deq1 q s).1.toNat, (deq1 q s).2) := rfl

@[simp] theorem callHook_enqueue (q : QueueId) (old new : Nat) (s : State) :
    callHook (enqueueHook q) old new s = enq1 q (BitVec.ofNat 8 new) s := rfl

@[simp] theorem callHook_recompute (old new : Nat) (s : State) : callHook recomputeHook old new s = recompute s := rfl

@[simp] theorem callHook_oscOk (old new : Nat) (s : State) :
    callHook oscOkHook old new s = if old = 1 ∧ new = 0 then raiseFlag .oscOkIrq s else s := by
  by_cases h1 : old = 1 <;> by_cases h2 : new = 0 <;>
    simp [callHook, oscOkHook, runHook, evalExpr, applyOp, flag, HookRun.start, h1, h2]
  rfl

@[simp] theorem callHook_clock (old new : Nat) (s : State) :
    callHook clockHook old new s = if new = 1 then clockStart s else clockStop s := by
  by_cases h : new = 1 <;> simp [callHook, clockHook, runHook, evalExpr, applyOp, flag, HookRun.start, h] <;> rfl

@[simp] theorem callHook_transfer (old new : Nat) (s : State) :
    callHook transferHook old new s = transferTrigger (BitVec.ofNat 8 new) s := rfl

/-- The hooks of the exemplar's map are these. -/
theorem exemplar_hooks : ∀ r ∈ exemplarMap, ∀ f ∈ r.fields,
    (f.provider = none ∨ f.provider = some (dequeueProvider .rcv)) ∧
    (f.writeEffect = none ∨ f.writeEffect = some (enqueueHook .snd) ∨ f.writeEffect = some (enqueueHook .sud)) ∧
    (f.postWrite = none ∨ f.postWrite = some recomputeHook ∨ f.postWrite = some oscOkHook ∨
      f.postWrite = some clockHook ∨ f.postWrite = some transferHook) := by decide

/-- The exemplar's hooks let a frame go on. -/
theorem exemplar_keepsFrames : keepsFrames exemplarMap = true := by decide

/-- A hook of the exemplar's map keeps what its operations keep. -/
theorem within_callPresent {r : Register} {f : Field} (hr : r ∈ exemplarMap) (hf : f ∈ r.fields) (old new : Nat)
    (s : State) : Within s (callPresent f.writeEffect old new s) ∧ Within s (callPresent f.postWrite old new s) := by
  obtain ⟨-, hw, hp⟩ := exemplar_hooks r hr f hf
  constructor
  · rcases hw with h | h | h <;> rw [h]
    · exact Within.refl s
    · exact within_enqN s _ _
    · exact within_enqN s _ _
  · rcases hp with h | h | h | h | h <;> rw [h]
    · exact Within.refl s
    · exact within_recompute s
    · rw [callPresent, callHook_oscOk]
      split
      · exact within_raiseFlag s _
      · exact Within.refl s
    · rw [callPresent, callHook_clock]
      split
      · exact within_clockStart s
      · exact within_clockStop s
    · exact within_transferTrigger _ s

/-! ### Bank accesses -/

theorem grows_setFld (s : State) (f : FieldId) (v : Nat) : Grows s (s.setFld f v) := { Grows.refl s with }

theorem grows_setBusy (s : State) (b : Bool) : Grows s (s.setBusy b) := { Grows.refl s with }

theorem grows_callProvider (p : Provider) (stored : Nat) (s : State) :
    Grows s (callProvider p stored s).2 ∧ Inner s (callProvider p stored s).2 :=
  grows_runHook p.body (.start stored stored s)

theorem grows_readField (f : Field) (s : State) : Grows s (readField f s).2 := by
  unfold readField
  split
  · exact Grows.refl s
  · split
    · exact Grows.refl s
    · exact (grows_callProvider _ _ s).1

theorem inner_readField (f : Field) (s : State) : Inner s (readField f s).2 := by
  unfold readField
  split
  · exact Inner.refl s
  · split
    · exact Inner.refl s
    · exact (grows_callProvider _ _ s).2

theorem grows_readFields (fs : List Field) : ∀ (acc : Nat) (s : State), Grows s (readFields fs acc s).2 := by
  induction fs with
  | nil => exact fun _ s => Grows.refl s
  | cons f fs ih => exact fun _ s => (grows_readField f s).trans (ih _ _)

theorem inner_readFields (fs : List Field) : ∀ (acc : Nat) (s : State), Inner s (readFields fs acc s).2 := by
  induction fs with
  | nil => exact fun _ s => Inner.refl s
  | cons f fs ih => exact fun _ s => (inner_readField f s).trans (ih _ _)

/-- No read of the bank changes what is constant, providers included (R172). -/
theorem grows_bankRead (offset : Int) (width : Nat) (s : State) : Grows s (bankRead offset width s).2 := by
  have hr : ∀ r, Grows s (s.report r) := fun r => (within_report s r).toGrows
  unfold bankRead
  split
  · exact hr _
  · split
    · exact hr _
    · split
      · exact hr _
      · exact ((grows_setBusy s _).trans (grows_readFields _ _ _)).trans (grows_setBusy _ _)

theorem grows_storeFields (W v : Nat) (fs : List Field) : ∀ s : State, Grows s (storeFields W v fs s) := by
  induction fs with
  | nil => exact Grows.refl
  | cons f fs ih =>
    intro s
    refine Grows.trans ?_ (ih _)
    unfold storeField
    split
    · exact Grows.refl s
    all_goals exact grows_setFld s _ _

theorem grows_callPresent (h : Option Hook) (old new : Nat) (s : State) :
    Grows s (callPresent h old new s) ∧ Inner s (callPresent h old new s) := by
  cases h with
  | none => exact ⟨Grows.refl s, Inner.refl s⟩
  | some h => exact grows_runHook h (.start old new s)

theorem grows_runHooks (b a : FieldVals) (fs : List Field) : ∀ s : State,
    Grows s (runHooks b a fs s) ∧ Inner s (runHooks b a fs s) := by
  induction fs with
  | nil => exact fun s => ⟨Grows.refl s, Inner.refl s⟩
  | cons f fs ih =>
    intro s
    have hf : Grows s (fieldHooks f (b.get f.name) (a.get f.name) s) ∧
        Inner s (fieldHooks f (b.get f.name) (a.get f.name) s) := by
      unfold fieldHooks
      split
      · exact ⟨Grows.refl s, Inner.refl s⟩
      · exact ⟨(grows_callPresent _ _ _ s).1.trans (grows_callPresent _ _ _ _).1,
          (grows_callPresent _ _ _ s).2.trans (grows_callPresent _ _ _ _).2⟩
    exact ⟨hf.1.trans (ih _).1, hf.2.trans (ih _).2⟩

/-- No write to the bank changes what is constant, hooks included (R176). -/
theorem grows_bankWrite (offset : Int) (width value : Nat) (s : State) : Grows s (bankWrite offset width value s) := by
  have hr : ∀ r, Grows s (s.report r) := fun r => (within_report s r).toGrows
  unfold bankWrite
  split
  · exact hr _
  · split
    · exact hr _
    · split
      · exact hr _
      · exact (((grows_setBusy s true).trans (grows_storeFields _ _ _ _)).trans (grows_runHooks _ _ _ _).1).trans
          (grows_setBusy _ _)

/-! ### Bank accesses of a declaration whose hooks let a frame go on -/

/-- The hooks of a field of such a declaration. -/
theorem keepsFrames_field {m : List Register} (hm : keepsFrames m = true) {r : Register} (hr : r ∈ m) {f : Field}
    (hf : f ∈ r.fields) : f.provider.all (fun p => p.body.keepsFrame) = true ∧ f.writeEffect.all Hook.keepsFrame = true ∧
      f.postWrite.all Hook.keepsFrame = true := by
  have h := List.all_eq_true.1 (List.all_eq_true.1 hm r hr) f hf
  simpa only [Bool.and_eq_true, and_assoc] using h

theorem framed_callPresent {h : Option Hook} (hk : h.all Hook.keepsFrame = true) (old new : Nat) (s : State) :
    Framed s (callPresent h old new s) := by
  cases h with
  | none => exact Framed.refl s
  | some h => exact framed_runHook h hk (.start old new s)

theorem framed_readFields {m : List Register} (hm : keepsFrames m = true) {r : Register} (hr : r ∈ m) (fs : List Field) :
    (∀ f ∈ fs, f ∈ r.fields) → ∀ (acc : Nat) (s : State), Framed s (readFields fs acc s).2 := by
  induction fs with
  | nil => exact fun _ _ s => Framed.refl s
  | cons f fs ih =>
    intro hfs acc s
    refine Framed.trans ?_ (ih (fun g hg => hfs g (List.mem_cons_of_mem _ hg)) _ _)
    have hk := (keepsFrames_field hm hr (hfs f List.mem_cons_self)).1
    unfold readField
    split
    · exact Framed.refl s
    · split
      · exact Framed.refl s
      · next p hp =>
        rw [hp] at hk
        exact framed_runHook p.body hk (.start (s.fld f.name) (s.fld f.name) s)

theorem framed_runHooks {m : List Register} (hm : keepsFrames m = true) {r : Register} (hr : r ∈ m) (b a : FieldVals)
    (fs : List Field) : (∀ f ∈ fs, f ∈ r.fields) → ∀ s : State, Framed s (runHooks b a fs s) := by
  induction fs with
  | nil => exact fun _ => Framed.refl
  | cons f fs ih =>
    intro hfs s
    refine Framed.trans ?_ (ih (fun g hg => hfs g (List.mem_cons_of_mem _ hg)) _)
    have hk := keepsFrames_field hm hr (hfs f List.mem_cons_self)
    unfold fieldHooks
    split
    · exact Framed.refl s
    · exact (framed_callPresent hk.2.1 _ _ s).trans (framed_callPresent hk.2.2 _ _ _)

theorem framed_storeFields (W v : Nat) (fs : List Field) : ∀ s : State, Framed s (storeFields W v fs s) := by
  induction fs with
  | nil => exact Framed.refl
  | cons f fs ih =>
    intro s
    refine Framed.trans ?_ (ih _)
    unfold storeField
    split
    · exact Framed.refl s
    all_goals exact { Framed.refl s with }

theorem framed_setBusy (s : State) (b : Bool) : Framed s (s.setBusy b) := { Framed.refl s with }

theorem findRegister_mem {m : List Register} {offset : Int} {r : Register} (h : findRegister m offset = some r) :
    r ∈ m := List.mem_of_find?_eq_some h

/-- A read lets a frame go on (R172, R185). -/
theorem framed_bankRead {s : State} (hs : keepsFrames s.par.regmap = true) (offset : Int) (width : Nat) :
    Framed s (bankRead offset width s).2 := by
  have hr : ∀ r, Framed s (s.report r) := fun r => (within_report s r).framed
  unfold bankRead
  split
  · exact hr _
  · split
    · exact hr _
    · split
      · exact hr _
      · next r h =>
        exact ((framed_setBusy s _).trans (framed_readFields hs (findRegister_mem h) _ (fun _ h => h) _ _)).trans
          (framed_setBusy _ _)

/-- A write lets a frame go on (R176, R186). -/
theorem framed_bankWrite {s : State} (hs : keepsFrames s.par.regmap = true) (offset : Int) (width value : Nat) :
    Framed s (bankWrite offset width value s) := by
  have hr : ∀ r, Framed s (s.report r) := fun r => (within_report s r).framed
  unfold bankWrite
  split
  · exact hr _
  · split
    · exact hr _
    · split
      · exact hr _
      · next r h =>
        exact (((framed_setBusy s true).trans (framed_storeFields _ _ _ _)).trans
          (framed_runHooks hs (findRegister_mem h) _ _ _ (fun _ h => h) _)).trans (framed_setBusy _ _)

/-! ### Bank accesses of the exemplar -/

theorem steady_storeFields (W v : Nat) (fs : List Field) : ∀ s : State, Steady s (storeFields W v fs s) := by
  induction fs with
  | nil => exact Steady.refl
  | cons f fs ih =>
    intro s
    refine Steady.trans ?_ (ih _)
    unfold storeField
    split
    · exact Steady.refl s
    all_goals exact { Steady.refl s with }

theorem steady_setBusy (s : State) (b : Bool) : Steady s (s.setBusy b) := { Steady.refl s with }

theorem steady_runHooks {r : Register} (hr : r ∈ exemplarMap) (b a : FieldVals) (fs : List Field) :
    (∀ f ∈ fs, f ∈ r.fields) → ∀ s : State, Steady s (runHooks b a fs s) := by
  induction fs with
  | nil => exact fun _ => Steady.refl
  | cons f fs ih =>
    intro hfs s
    refine Steady.trans ?_ (ih (fun g hg => hfs g (List.mem_cons_of_mem _ hg)) _)
    have hf := hfs f List.mem_cons_self
    unfold fieldHooks
    split
    · exact Steady.refl s
    · exact (within_callPresent hr hf _ _ s).1.toSteady.trans (within_callPresent hr hf _ _ _).2.toSteady

theorem steady_readFields {r : Register} (hr : r ∈ exemplarMap) (fs : List Field) :
    (∀ f ∈ fs, f ∈ r.fields) → ∀ (acc : Nat) (s : State), Steady s (readFields fs acc s).2 := by
  induction fs with
  | nil => exact fun _ _ s => Steady.refl s
  | cons f fs ih =>
    intro hfs acc s
    refine Steady.trans ?_ (ih (fun g hg => hfs g (List.mem_cons_of_mem _ hg)) _ _)
    unfold readField
    split
    · exact Steady.refl s
    · rcases (exemplar_hooks r hr f (hfs f List.mem_cons_self)).1 with h | h <;> rw [h]
      · exact Steady.refl s
      · exact (within_deq1 s .rcv).toSteady

/-- A read of the exemplar's bank leaves the frame and the topology alone and disposes no clock (R172). -/
theorem steady_bankRead {s : State} (hs : s.exemplar) (offset : Int) (width : Nat) :
    Steady s (bankRead offset width s).2 := by
  have hr : ∀ r, Steady s (s.report r) := fun r => (within_report s r).toSteady
  unfold bankRead
  split
  · exact hr _
  · split
    · exact hr _
    · split
      · exact hr _
      · next r h =>
        rw [hs.2] at h
        exact ((steady_setBusy s _).trans (steady_readFields (findRegister_mem h) _ (fun _ h => h) _ _)).trans
          (steady_setBusy _ _)

/-- A write to the exemplar's bank leaves the frame and the topology alone and disposes no clock (R176). -/
theorem steady_bankWrite {s : State} (hs : s.exemplar) (offset : Int) (width value : Nat) :
    Steady s (bankWrite offset width value s) := by
  have hr : ∀ r, Steady s (s.report r) := fun r => (within_report s r).toSteady
  unfold bankWrite
  split
  · exact hr _
  · split
    · exact hr _
    · split
      · exact hr _
      · next r h =>
        rw [hs.2] at h
        exact (((steady_setBusy s true).trans (steady_storeFields _ _ _ _)).trans
          (steady_runHooks (findRegister_mem h) _ _ _ (fun _ h => h) _)).trans (steady_setBusy _ _)

end Sys2Proof.Machine
end

