-- ==== Sys2Proof/Laws/Exemplar.lean ====
section
/-! SUPPORT. The exemplar's bank accesses: the register an index selects (R54, R69), and a bus-side access carried to
that register's fields once the guard, width and unmapped checks have passed (R172, R176). -/

namespace Sys2Proof.Machine

@[simp] theorem findRegister_rcvFifo : findRegister exemplarMap 1 = some regRcvFifo := by decide
@[simp] theorem findRegister_sndFifo : findRegister exemplarMap 2 = some regSndFifo := by decide
@[simp] theorem findRegister_sudFifo : findRegister exemplarMap 4 = some regSudFifo := by decide
@[simp] theorem findRegister_sndBc : findRegister exemplarMap 7 = some regSndBc := by decide
@[simp] theorem findRegister_usbIrq : findRegister exemplarMap 13 = some regUsbIrq := by decide
@[simp] theorem findRegister_usbIen : findRegister exemplarMap 14 = some regUsbIen := by decide
@[simp] theorem findRegister_usbCtl : findRegister exemplarMap 15 = some regUsbCtl := by decide
@[simp] theorem findRegister_cpuCtl : findRegister exemplarMap 16 = some regCpuCtl := by decide
@[simp] theorem findRegister_hirq : findRegister exemplarMap 25 = some regHirq := by decide
@[simp] theorem findRegister_hien : findRegister exemplarMap 26 = some regHien := by decide
@[simp] theorem findRegister_mode : findRegister exemplarMap 27 = some regMode := by decide
@[simp] theorem findRegister_perAddr : findRegister exemplarMap 28 = some regPerAddr := by decide
@[simp] theorem findRegister_hxfr : findRegister exemplarMap 30 = some regHxfr := by decide
@[simp] theorem findRegister_hrsl : findRegister exemplarMap 31 = some regHrsl := by decide

/-- An offset is unmapped exactly when no declared register has it (R174). -/
theorem findRegister_eq_none (m : List Register) (offset : Int) :
    findRegister m offset = none ↔ offset ∉ m.map (·.index) := by
  simp only [findRegister, List.find?_eq_none, decide_eq_true_eq, List.mem_map, not_exists, not_and]

/-- The register found at an offset is declared there. -/
theorem findRegister_some {m : List Register} {offset : Int} {r : Register} (h : findRegister m offset = some r) :
    r ∈ m ∧ r.index = offset :=
  ⟨List.mem_of_find?_eq_some h, by simpa using List.find?_some h⟩

/-- A read that reaches a register (R172). -/
theorem bankRead_declared {s : State} {offset : Int} {r : Register} (hb : s.bank.busy = false)
    (hr : findRegister s.par.regmap offset = some r) :
    bankRead offset s.par.width s =
      ((readFields r.fields 0 (s.setBusy true)).1, (readFields r.fields 0 (s.setBusy true)).2.setBusy false) := by
  simp [bankRead, hb, hr]

/-- A write that reaches a register (R176). -/
theorem bankWrite_declared {s : State} {offset : Int} {r : Register} (value : Nat) (hb : s.bank.busy = false)
    (hr : findRegister s.par.regmap offset = some r) :
    bankWrite offset s.par.width value s = writeRegister r value s := by
  simp [bankWrite, hb, hr]

/-- The guard comes first (R183, R386). -/
theorem bankRead_busy {s : State} (offset : Int) (width : Nat) (hb : s.bank.busy = true) :
    bankRead offset width s = (0, s.report (.reentrant offset)) := by
  simp [bankRead, hb]

theorem bankWrite_busy {s : State} (offset : Int) (width value : Nat) (hb : s.bank.busy = true) :
    bankWrite offset width value s = s.report (.reentrant offset) := by
  simp [bankWrite, hb]

/-- Then the width (R171). -/
theorem bankRead_width {s : State} (offset : Int) {width : Nat} (hb : s.bank.busy = false) (hw : width ≠ s.par.width) :
    bankRead offset width s = (0, s.report (.badWidth offset width)) := by
  simp [bankRead, hb, hw]

theorem bankWrite_width {s : State} (offset : Int) {width : Nat} (value : Nat) (hb : s.bank.busy = false)
    (hw : width ≠ s.par.width) : bankWrite offset width value s = s.report (.badWidth offset width) := by
  simp [bankWrite, hb, hw]

/-- Then the unmapped check (R174, R178). -/
theorem bankRead_unmapped {s : State} {offset : Int} (hb : s.bank.busy = false)
    (hr : findRegister s.par.regmap offset = none) :
    bankRead offset s.par.width s = (0, s.report (.unmappedRead offset)) := by
  simp [bankRead, hb, hr]

theorem bankWrite_unmapped {s : State} {offset : Int} (value : Nat) (hb : s.bank.busy = false)
    (hr : findRegister s.par.regmap offset = none) :
    bankWrite offset s.par.width value s = s.report (.unmappedWrite offset value) := by
  simp [bankWrite, hb, hr]

end Sys2Proof.Machine
end

