-- ==== Sys2Proof/Laws/Memory.lean ====
section
/-! SUPPORT. The keyed stores keep their canonical form under every operation that touches them, and the state after reset
has it; reading one after a write gives the value written, and every other key is left alone. -/

namespace Sys2Proof.Machine

/-- The canonical form depends on the topology and on the fields of a generic bank alone. -/
theorem memory_wf_congr {s t : State} (hd : t.dev = s.dev) (ho : t.bank.val.other = s.bank.val.other) :
    Memory.wf t = Memory.wf s := by
  simp [Memory.wf, hd, ho]

theorem memory_wf_iff (s : State) : Memory.wf s = true ↔
    keyWf s.dev = true ∧ keyWf s.bank.val.other = true ∧ (s.bank.val.other.all fun e => decide (e.2 ≠ 0)) = true := by
  simp only [Memory.wf, Bool.and_eq_true, and_assoc]

/-- The state after reset is in canonical form. -/
theorem memory_wf_reset : Memory.wf State.reset = true := by decide

/-- A field store keeps the canonical form. -/
theorem memory_wf_setFld {s : State} (h : Memory.wf s = true) (f : FieldId) (v : Nat) :
    Memory.wf (s.setFld f v) = true := by
  rw [memory_wf_iff] at h ⊢
  exact ⟨h.1, FieldVals.set_other_wf _ f v h.2.1 h.2.2⟩

theorem memory_wf_raw {s : State} (h : Memory.wf s = true) (f : FieldId) (v : Nat) : Memory.wf (s.raw f v) = true :=
  memory_wf_setFld h f _

/-- A change of the topology keeps the canonical form (R353). -/
theorem keyWf_topologyChange {m : List (Nat × Device)} (h : keyWf m = true) : keyWf (topologyChange m) = true := by
  simp only [keyWf, decide_eq_true_eq, topologyChange, List.pairwise_map] at h ⊢
  exact h

/-- Recording a device keeps the canonical form (R322). -/
theorem memory_wf_attach {s : State} (h : Memory.wf s = true) (a : Nat) (d : Device) :
    Memory.wf (attachDevice a d s) = true := by
  rw [memory_wf_iff] at h ⊢
  exact ⟨keyWf_keyPut (keyWf_topologyChange h.1) a d, h.2⟩

/-- Removing a device keeps the canonical form (R323). -/
theorem memory_wf_detach {s : State} (h : Memory.wf s = true) (a : Nat) : Memory.wf (detachDevice a s) = true := by
  rw [memory_wf_iff] at h ⊢
  exact ⟨keyWf_topologyChange (keyWf_keyDrop h.1 a), h.2⟩

/-- The register resets keep the canonical form (R184). -/
theorem resetRegister_other_wf (r : Register) (fs : List Field) : ∀ b : FieldVals,
    keyWf b.other = true → (b.other.all fun e => decide (e.2 ≠ 0)) = true →
    keyWf (resetRegister r fs b).other = true ∧
      ((resetRegister r fs b).other.all fun e => decide (e.2 ≠ 0)) = true := by
  induction fs with
  | nil => exact fun b h k => ⟨h, k⟩
  | cons f fs ih =>
    intro b h k
    have hs := FieldVals.set_other_wf b f.name (resetOf r f) h k
    exact ih _ hs.1 hs.2

theorem resetFields_other_wf (m : List Register) : ∀ b : FieldVals,
    keyWf b.other = true → (b.other.all fun e => decide (e.2 ≠ 0)) = true →
    keyWf (resetFields m b).other = true ∧ ((resetFields m b).other.all fun e => decide (e.2 ≠ 0)) = true := by
  induction m with
  | nil => exact fun b h k => ⟨h, k⟩
  | cons r rs ih =>
    intro b h k
    have hs := resetRegister_other_wf r r.fields b h k
    exact ih _ hs.1 hs.2

theorem memory_wf_bankReset {s : State} (h : Memory.wf s = true) : Memory.wf (bankReset s) = true := by
  rw [memory_wf_iff] at h ⊢
  exact ⟨h.1, resetFields_other_wf _ _ h.2.1 h.2.2⟩

/-- A change of the topology moves no device; each may answer otherwise (R353). -/
theorem keyGet_topologyChange (a : Nat) (m : List (Nat × Device)) :
    keyGet a (topologyChange m) = (keyGet a m).map nextAnswers := by
  induction m with
  | nil => rfl
  | cons e m ih =>
    rw [topologyChange, List.map_cons, keyGet, keyGet, ← topologyChange]
    split
    · rfl
    · exact ih

/-- The device recorded at an address is found there (R322). -/
theorem device_attach (s : State) (a : Nat) (d : Device) : (attachDevice a d s).device a = some d :=
  keyGet_keyPut_self a d _

/-- Every other address keeps its device, which may answer otherwise (R353). -/
theorem device_attach_other (s : State) {a b : Nat} (h : b ≠ a) (d : Device) :
    (attachDevice a d s).device b = (s.device b).map nextAnswers :=
  (keyGet_keyPut_other h d _).trans (keyGet_topologyChange b s.dev)

/-- No device is found where one was removed (R323). -/
theorem device_detach (s : State) (a : Nat) : (detachDevice a s).device a = none := by
  rw [State.device, detachDevice, keyGet_topologyChange, keyGet_keyDrop_self]
  rfl

theorem device_detach_other (s : State) {a b : Nat} (h : b ≠ a) :
    (detachDevice a s).device b = (s.device b).map nextAnswers := by
  rw [State.device, detachDevice, keyGet_topologyChange, keyGet_keyDrop_other h]
  rfl

end Sys2Proof.Machine
end

