-- ==== Sys2Proof/Laws/PerInstr.lean ====
section
/-! SUPPORT. A fact about every operation as syntax, one lemma per constructor: an operation has a bit pattern exactly when
its format is not EVENT (R130), and its pattern is then as long as its format says (R132). -/

namespace Sys2Proof

/-- How many bytes a format has (R132). -/
def Laws.EncodingShape.length : Format → Nat
  | .cmd8 => 1
  | .xfr8 => 1
  | .sud64 => 8
  | .event => 0

/-- An encoding there is has its format's length, and no EVENT has one. -/
def Laws.EncodingShape.Statement (i : Instr) : Prop :=
  ∀ bs : List Byte, encode i = some bs → i.format ≠ .event ∧ bs.length = Laws.EncodingShape.length i.format

/-- Any operation without a bit pattern meets the statement. -/
theorem Laws.EncodingShape.of_none {i : Instr} (h : encode i = none) : Laws.EncodingShape.Statement i :=
  fun _ hb => nomatch h.symm.trans hb

/-- Any operation with one pattern of its format's length meets it. -/
theorem Laws.EncodingShape.of_some {i : Instr} {cs : List Byte} (h : encode i = some cs) (hf : i.format ≠ .event)
    (hl : cs.length = Laws.EncodingShape.length i.format) : Laws.EncodingShape.Statement i := by
  intro bs hb
  obtain rfl : cs = bs := Option.some.inj (h.symm.trans hb)
  exact ⟨hf, hl⟩

theorem Laws.EncodingShape.cmdRd (idx : BitVec 5) : Laws.EncodingShape.Statement (.cmdRd idx) :=
  Laws.EncodingShape.of_some rfl nofun rfl
theorem Laws.EncodingShape.cmdWr (idx : BitVec 5) : Laws.EncodingShape.Statement (.cmdWr idx) :=
  Laws.EncodingShape.of_some rfl nofun rfl
theorem Laws.EncodingShape.xferSetup (ep : BitVec 4) : Laws.EncodingShape.Statement (.xferSetup ep) :=
  Laws.EncodingShape.of_some rfl nofun rfl
theorem Laws.EncodingShape.xferHs : Laws.EncodingShape.Statement .xferHs := Laws.EncodingShape.of_some rfl nofun rfl
theorem Laws.EncodingShape.xferOut (ep : BitVec 4) : Laws.EncodingShape.Statement (.xferOut ep) :=
  Laws.EncodingShape.of_some rfl nofun rfl
theorem Laws.EncodingShape.xferIn (ep : BitVec 4) : Laws.EncodingShape.Statement (.xferIn ep) :=
  Laws.EncodingShape.of_some rfl nofun rfl
theorem Laws.EncodingShape.sudDecode (p : List Byte) : Laws.EncodingShape.Statement (.sudDecode p) := by
  intro bs hb
  obtain ⟨hl, rfl⟩ : p.length = Config.setupLen ∧ p = bs := by simpa [encode] using hb
  exact ⟨nofun, hl⟩
theorem Laws.EncodingShape.frSelect : Laws.EncodingShape.Statement .frSelect := Laws.EncodingShape.of_none rfl
theorem Laws.EncodingShape.frXfer (b : Byte) : Laws.EncodingShape.Statement (.frXfer b) :=
  Laws.EncodingShape.of_none rfl
theorem Laws.EncodingShape.frDeselect : Laws.EncodingShape.Statement .frDeselect := Laws.EncodingShape.of_none rfl
theorem Laws.EncodingShape.busRead (offset : Int) : Laws.EncodingShape.Statement (.busRead offset) :=
  Laws.EncodingShape.of_none rfl
theorem Laws.EncodingShape.busWrite (offset : Int) (v : Byte) : Laws.EncodingShape.Statement (.busWrite offset v) :=
  Laws.EncodingShape.of_none rfl
theorem Laws.EncodingShape.vcTick : Laws.EncodingShape.Statement .vcTick := Laws.EncodingShape.of_none rfl
theorem Laws.EncodingShape.vcAdvance (dt : Rat) : Laws.EncodingShape.Statement (.vcAdvance dt) :=
  Laws.EncodingShape.of_none rfl
theorem Laws.EncodingShape.pAttach (a : Nat) (d : Device) : Laws.EncodingShape.Statement (.pAttach a d) :=
  Laws.EncodingShape.of_none rfl
theorem Laws.EncodingShape.pDetach (a : Nat) : Laws.EncodingShape.Statement (.pDetach a) :=
  Laws.EncodingShape.of_none rfl
theorem Laws.EncodingShape.cbDataReady (id context : Nat) (bytes : List Byte) : Laws.EncodingShape.Statement (.cbDataReady id context bytes) :=
  Laws.EncodingShape.of_none rfl
theorem Laws.EncodingShape.cbSetupResp (id : Nat) (bytes : List Byte) : Laws.EncodingShape.Statement (.cbSetupResp id bytes) :=
  Laws.EncodingShape.of_none rfl
theorem Laws.EncodingShape.pReset : Laws.EncodingShape.Statement .pReset := Laws.EncodingShape.of_none rfl
theorem Laws.EncodingShape.pDispose : Laws.EncodingShape.Statement .pDispose := Laws.EncodingShape.of_none rfl
theorem Laws.EncodingShape.psmByte (b : Byte) : Laws.EncodingShape.Statement (.psmByte b) :=
  Laws.EncodingShape.of_none rfl
theorem Laws.EncodingShape.psmData (b : Byte) : Laws.EncodingShape.Statement (.psmData b) :=
  Laws.EncodingShape.of_none rfl
theorem Laws.EncodingShape.psmDummy (b : Byte) : Laws.EncodingShape.Statement (.psmDummy b) :=
  Laws.EncodingShape.of_none rfl
theorem Laws.EncodingShape.psmFrameEnd : Laws.EncodingShape.Statement .psmFrameEnd := Laws.EncodingShape.of_none rfl
theorem Laws.EncodingShape.psmReset : Laws.EncodingShape.Statement .psmReset := Laws.EncodingShape.of_none rfl
theorem Laws.EncodingShape.rbRead (offset : Int) (width : Nat) : Laws.EncodingShape.Statement (.rbRead offset width) :=
  Laws.EncodingShape.of_none rfl
theorem Laws.EncodingShape.rbWrite (offset : Int) (width : Nat) (value : Nat) : Laws.EncodingShape.Statement (.rbWrite offset width value) :=
  Laws.EncodingShape.of_none rfl
theorem Laws.EncodingShape.rbReset : Laws.EncodingShape.Statement .rbReset := Laws.EncodingShape.of_none rfl
theorem Laws.EncodingShape.iaRecompute : Laws.EncodingShape.Statement .iaRecompute := Laws.EncodingShape.of_none rfl
theorem Laws.EncodingShape.lineSet (b : Bool) : Laws.EncodingShape.Statement (.lineSet b) :=
  Laws.EncodingShape.of_none rfl
theorem Laws.EncodingShape.vcObtain (callback : Callback) (rate : Int) : Laws.EncodingShape.Statement (.vcObtain callback rate) :=
  Laws.EncodingShape.of_none rfl
theorem Laws.EncodingShape.vcStart : Laws.EncodingShape.Statement .vcStart := Laws.EncodingShape.of_none rfl
theorem Laws.EncodingShape.vcStop : Laws.EncodingShape.Statement .vcStop := Laws.EncodingShape.of_none rfl
theorem Laws.EncodingShape.vcDispose : Laws.EncodingShape.Statement .vcDispose := Laws.EncodingShape.of_none rfl
theorem Laws.EncodingShape.fqEnq1 (q : QueueId) (b : Byte) : Laws.EncodingShape.Statement (.fqEnq1 q b) :=
  Laws.EncodingShape.of_none rfl
theorem Laws.EncodingShape.fqEnqN (q : QueueId) (bytes : List Byte) : Laws.EncodingShape.Statement (.fqEnqN q bytes) :=
  Laws.EncodingShape.of_none rfl
theorem Laws.EncodingShape.fqDeq1 (q : QueueId) : Laws.EncodingShape.Statement (.fqDeq1 q) :=
  Laws.EncodingShape.of_none rfl
theorem Laws.EncodingShape.fqDeqN (q : QueueId) (n : Nat) : Laws.EncodingShape.Statement (.fqDeqN q n) :=
  Laws.EncodingShape.of_none rfl
theorem Laws.EncodingShape.fqDeqAll (q : QueueId) : Laws.EncodingShape.Statement (.fqDeqAll q) :=
  Laws.EncodingShape.of_none rfl
theorem Laws.EncodingShape.fqCount (q : QueueId) : Laws.EncodingShape.Statement (.fqCount q) :=
  Laws.EncodingShape.of_none rfl
theorem Laws.EncodingShape.fqClear (q : QueueId) : Laws.EncodingShape.Statement (.fqClear q) :=
  Laws.EncodingShape.of_none rfl
theorem Laws.EncodingShape.pFrameTick : Laws.EncodingShape.Statement .pFrameTick := Laws.EncodingShape.of_none rfl
theorem Laws.EncodingShape.pXfer (v : Byte) : Laws.EncodingShape.Statement (.pXfer v) := Laws.EncodingShape.of_none rfl
theorem Laws.EncodingShape.pSetup (d : Device) : Laws.EncodingShape.Statement (.pSetup d) :=
  Laws.EncodingShape.of_none rfl
theorem Laws.EncodingShape.pBulkOut (e : Endpoint) : Laws.EncodingShape.Statement (.pBulkOut e) :=
  Laws.EncodingShape.of_none rfl
theorem Laws.EncodingShape.pBulkIn (eo : Option Endpoint) : Laws.EncodingShape.Statement (.pBulkIn eo) :=
  Laws.EncodingShape.of_none rfl

end Sys2Proof
end

