-- ==== Sys2Proof/Tests/Slice0.lean ====
section
/-! SUPPORT. The model's own tests: ill-formed terms refused, words written out from the encoding tables, one step per
operation with the expected result of spec/95_test_vectors.md (the vector is named in each comment), and for every statement
with hypotheses a state and operands that meet them all. -/

namespace Sys2Proof.Tests

open Sys2Proof.Machine

/-! ## Helpers -/

/-- A part of the next state, if there is one. -/
def after {α : Type} (i : Instr) (s : State) (part : State → α) : Option α :=
  match exec i s with
  | .next t => some (part t)
  | _ => none

/-- The name of a stop. -/
def stop (i : Instr) (s : State) : Option Refusal :=
  match exec i s with
  | .refused r => some r
  | _ => none

/-- A part of the state after a run of agent steps. -/
def run {α : Type} (steps : List Instr) (s : State) (part : State → α) : Option α :=
  match execAll steps s with
  | .next t => some (part t)
  | _ => none

/-- The device of the vectors: endpoints 1 and 2 (PT vectors). -/
def d : Device := { ident := 7, endpoints := [1, 2] }

/-- The common start of the PT vectors, given other field values: d at address 1, PERADDR = 1, HRSL = 0x40. -/
def common : State :=
  { State.reset.withVal { busState := 1, perAddr := 1 } with dev := [(1, d)] }

/-- A selected frame in a state of the protocol machine. -/
def inFrame (p : PsmState) (s : State) : State := { s with cs := true, psm := { s.psm with state := p } }

/-- A running clock. -/
def ticking (s : State) : State := { s with clk := { s.clk with running := true } }

/-- A disposed peripheral. -/
def disposed (s : State) : State := { s with clk := { s.clk with disposed := true }, ended := true }

/-- The state with the bytes of one queue. -/
def holding (q : QueueId) (bs : List Byte) (s : State) : State := s.setBytes q bs

/-- The bank G of the generic-bank vectors (RB-30 to RB-37): 16 bits, one register of three fields. -/
def bankG (provider : Option Provider) : Params :=
  { exemplarParams with
    width := 16
    regmap := [
      { name := .user 0, index := 0x10, reset := 0xAB05
        fields := [
          { name := .user 0 4, offset := 0, mode := .ro },
          { name := .user 1 4, offset := 4, mode := .w1c },
          { name := .user 2 8, offset := 8, mode := .rw, provider := provider }] }] }

/-- The state of bank G after its reset, with B = 0b1011 (RB-31). -/
def stateG : State := (bankReset { State.reset with par := bankG none }).raw (.user 1 4) 0b1011

/-! ## Well-formedness: every check refuses an ill-formed term -/

theorem test_wf_negative_advance : Instr.wf (.vcAdvance (-1)) = false := by decide +kernel
theorem test_wf_attach_address : Instr.wf (.pAttach 128 d) = false := by decide
theorem test_wf_attach_device : Instr.wf (.pAttach 127 { ident := 0, endpoints := [0] }) = false := by decide
theorem test_wf_detach_address : Instr.wf (.pDetach 128) = false := by decide
theorem test_wf_rate : Instr.wf (.vcObtain .frameTick 0) = false := by decide
theorem test_wf_device_later : Instr.wf (.pAttach 0 { d with later := [[1], [0]] }) = false := by decide
theorem test_wf_hook_endpoint : Field.wf 8
    { name := .user 0 1, offset := 0, mode := .rw, provider := some { body := .call (.bulkOut ⟨0, 16⟩), value := .old } } =
      false := by decide
theorem test_wf_setup_device : Instr.wf (.pSetup { ident := 0, endpoints := [16] }) = false := by decide
theorem test_wf_bulk_out_endpoint : Instr.wf (.pBulkOut { device := 0, index := 0 }) = false := by decide
theorem test_wf_bulk_in_endpoint : Instr.wf (.pBulkIn (some { device := 0, index := 16 })) = false := by decide
theorem test_wf_accepts : Instr.wf (.pAttach 127 d) = true ∧ Instr.wf (.pBulkIn none) = true := by decide
theorem test_wf_zero_width_field : Field.wf 8 { name := .user 0 0, offset := 0, mode := .rw } = false := by decide
theorem test_wf_field_outside : Field.wf 8 { name := .user 0 4, offset := 5, mode := .rw } = false := by decide
theorem test_wf_empty_register : Register.wf 8 { name := .user 0, index := 0, fields := [], reset := 0 } = false := by
  decide
theorem test_wf_overlap : Register.wf 8 { name := .user 0, index := 0, reset := 0, fields := [
    { name := .user 0 4, offset := 0, mode := .rw }, { name := .user 1 4, offset := 3, mode := .rw }] } = false := by
  decide
theorem test_wf_zero_width_bank : regmapWf 0 [] = false := by decide
theorem test_wf_duplicate_offset :
    regmapWf 8 [regSndBc, { regPerAddr with index := 7 }] = false := by decide
theorem test_wf_duplicate_field : regmapWf 8 [regSndBc, { regSndBc with index := 8 }] = false := by decide
theorem test_wf_receive_capacity : constructionWf exemplarParams (some 0) 1 = false := by decide
theorem test_wf_frame_rate : constructionWf exemplarParams none 0 = false := by decide
theorem test_wf_exemplar : constructionWf exemplarParams (some 1) 1 = true := by decide

/-! ## Encodings, written out bit by bit -/

/-- IDX 01101, bit 2 0, DIR 0, bit 0 0 (R137: read of register 13 is 0x68). -/
theorem test_decode_cmdRd : decode .cmd8 [0b01101_0_0_0#8] = .ok (.cmdRd 13, []) := by decide
/-- IDX 01111, DIR 1 (R137: write of register 15 is 0x7A), and 0x7F with the ignored bits set (E-5). -/
theorem test_decode_cmdWr :
    decode .cmd8 [0b01111_0_1_0#8] = .ok (.cmdWr 15, []) ∧ decode .cmd8 [0b01111_1_1_1#8] = .ok (.cmdWr 15, []) := by
  decide
/-- HS 0, bit 6 0, OUTNIN 0, SETUP 1, EP 0001 (E-10); SETUP over HS (E-14). -/
theorem test_decode_xferSetup :
    decode .xfr8 [0b0_0_0_1_0001#8] = .ok (.xferSetup 1, []) ∧ decode .xfr8 [0b1_1_1_1_1111#8] = .ok (.xferSetup 15, []) := by
  decide
/-- HS 1, SETUP 0, OUTNIN, bit 6 and EP ignored (E-13: 0xA0, 0xC3). -/
theorem test_decode_xferHs :
    decode .xfr8 [0b1_0_1_0_0000#8] = .ok (.xferHs, []) ∧ decode .xfr8 [0b1_1_0_0_0011#8] = .ok (.xferHs, []) := by decide
/-- OUTNIN 1, EP 1111 (E-11: 0x2F); bit 6 ignored (E-12: 0x60). -/
theorem test_decode_xferOut :
    decode .xfr8 [0b0_0_1_0_1111#8] = .ok (.xferOut 15, []) ∧ decode .xfr8 [0b0_1_1_0_0000#8] = .ok (.xferOut 0, []) := by
  decide
/-- All kind bits 0, EP 1111 (E-9: 0x0F); bit 6 ignored (E-12: 0x40). -/
theorem test_decode_xferIn :
    decode .xfr8 [0b0_0_0_0_1111#8] = .ok (.xferIn 15, []) ∧ decode .xfr8 [0b0_1_0_0_0000#8] = .ok (.xferIn 0, []) := by
  decide
/-- Eight bytes in queue order, the ninth left over; seven bytes are too few (E-16, E-17). -/
theorem test_decode_sudDecode :
    decode .sud64 [0x21, 0x09, 0x34, 0x12, 0x78, 0x56, 0xFF, 0xFF, 0xAA] =
      .ok (.sudDecode [0x21, 0x09, 0x34, 0x12, 0x78, 0x56, 0xFF, 0xFF], [0xAA]) ∧
    decode .sud64 [1, 2, 3, 4, 5, 6, 7] = .error (.shortSetup 7) := by decide
/-- The fields of E-16, little-endian. -/
theorem test_setup_fields : decodeSetup [0x21, 0x09, 0x34, 0x12, 0x78, 0x56, 0xFF, 0xFF] =
    some { bmRequestType := 0x21, bRequest := 0x09, wValue := 0x1234, wIndex := 0x5678, wLength := 0xFFFF } := by decide
/-- No operation of format EVENT has a bit pattern (R130, R143). -/
theorem test_events_have_no_pattern :
    (decode .event [0x00] = .error .noBitPattern) ∧
    ([Instr.frSelect, .frXfer 0, .frDeselect, .busRead 0, .busWrite 0 0, .vcTick, .vcAdvance 0, .pAttach 0 d, .pDetach 0,
      .cbDataReady 0 0 [], .cbSetupResp 0 [], .pReset, .pDispose, .psmByte 0, .psmData 0, .psmDummy 0, .psmFrameEnd,
      .psmReset, .rbRead 0 8, .rbWrite 0 8 0, .rbReset, .iaRecompute, .lineSet true, .vcObtain .frameTick 1, .vcStart,
      .vcStop, .vcDispose, .fqEnq1 .sud 0, .fqEnqN .sud [], .fqDeq1 .sud, .fqDeqN .sud 0, .fqDeqAll .sud, .fqCount .sud,
      .fqClear .sud, .pFrameTick, .pXfer 0, .pSetup d, .pBulkOut ⟨7, 1⟩, .pBulkIn none].all
        fun i => encode i == none && i.format == .event) = true := by decide
/-- The encoder writes ignored bits 0 (R137, E-7). -/
theorem test_encode_command : encode (.cmdRd 25) = some [0xC8] ∧ encode (.cmdWr 25) = some [0xCA] := by decide
/-- A table word is read least significant byte first. -/
theorem test_table_word :
    decodeTableWord 8 0x7A = some (.cmdWr 15) ∧
    decodeTableWord 64 0x0807060504030201 = some (.sudDecode [1, 2, 3, 4, 5, 6, 7, 8]) ∧ decodeTableWord 16 0 = none := by
  decide
/-- A command word placed is the next command decoded. -/
theorem test_placed_command :
    (match step (State.reset.withFetchWord 8 0x7A) with | .next t => some t.psm | _ => none) =
      some { state := .writing 15, last := some 15 } := by decide
/-- A setup word placed is the next packet decoded and handed over. -/
theorem test_placed_setup :
    (match step (State.reset.withFetchWord 64 0x0807060504030201) with | .next t => some t.out | _ => none) =
      some [.handleSetup { ident := 0, endpoints := [] }
        { bmRequestType := 1, bRequest := 2, wValue := 0x0403, wIndex := 0x0605, wLength := 0x0807 } 0] := by decide

/-! ## One step per operation -/

/-- R279: Idle, 0xC8 leaves Reading(25), and nothing is read (PF-3). -/
theorem test_cmdRd : after (.cmdRd 25) (holding .rcv [9] State.reset) (fun t => (t.psm, t.rcv.bytes)) =
    some ({ state := .reading 25, last := some 25 }, [9]) := by decide
/-- R278: Idle, 0x7A leaves Writing(15). -/
theorem test_cmdWr : after (.cmdWr 15) State.reset (·.psm) = some { state := .writing 15, last := some 15 } := by decide
/-- S4: SETUP_BAD_EP(1), no flag, the setup FIFO keeps its bytes. -/
theorem test_xferSetup : after (.xferSetup 1) (holding .sud [1, 2] common)
    (fun t => (t.log, t.fld .hxfrdnIrq, t.sud.bytes, t.out)) = some ([.setupBadEp 1], 0, [1, 2], []) := by decide
/-- PT-10: HIRQ = 0x80, no output to the device. -/
theorem test_xferHs : after .xferHs common (fun t => (registerImage t.bank.val 25, t.out)) =
    some (0x80, [.lineSet false]) := by decide
/-- PT-18: NO_ENDPOINT(3), HIRQ = 0x80, the send FIFO untouched. -/
theorem test_xferOut : after (.xferOut 3) (holding .snd [1, 2] common)
    (fun t => (t.log, registerImage t.bank.val 25, t.snd.bytes)) = some ([.noEndpoint 3], 0x80, [1, 2]) := by decide
/-- PT-11: a subscription on endpoint 1 and no flag. -/
theorem test_xferIn : after (.xferIn 1) common (fun t => (t.pend, t.out, registerImage t.bank.val 25)) =
    some ([{ id := 0, kind := .dataReady }], [.subscribeDataReady ⟨7, 1⟩ 0], 0) := by decide
/-- E-15. -/
theorem test_sudDecode : after (.sudDecode [0x80, 0x06, 0x00, 0x01, 0x00, 0x00, 0x12, 0x00]) State.reset (·.out) =
    some [.result (.packet (some
      { bmRequestType := 0x80, bRequest := 0x06, wValue := 0x0100, wIndex := 0, wLength := 0x0012 }))] := by decide
/-- PF-8: selecting again returns the machine to Idle. -/
theorem test_frSelect : after .frSelect (inFrame (.writing 15) State.reset) (fun t => (t.cs, t.psm.state)) =
    some (true, .idle) := by decide
/-- PF-5: a byte outside a frame. -/
theorem test_frXfer : after (.frXfer 0x7A) State.reset (fun t => (t.log, t.out, t.psm)) =
    some ([.unexpectedState 0x7A], [.result (.byte 0)], { state := .idle, last := none }) := by decide
/-- R303: the frame ends, the last target stays. -/
theorem test_frDeselect : run [.frSelect, .frXfer 0x7A, .frDeselect] State.reset (fun t => (t.cs, t.psm)) =
    some (false, { state := .idle, last := some 15 }) := by decide
/-- RB-19 and RB-22. -/
theorem test_busRead :
    after (.busRead (-1)) State.reset (fun t => (t.out, t.log)) = some ([.result (.byte 0)], [.unmappedRead (-1)]) ∧
    after (.busRead 1) (holding .rcv [0xAA] State.reset) (fun t => (t.out, t.rcv.bytes)) =
      some ([.result (.byte 0xAA)], []) := by decide
/-- RB-20: a trigger without device. -/
theorem test_busWrite : after (.busWrite 30 0x80) State.reset (fun t => (t.log, t.fld .hxfrdnIrq, t.fld .hxfr)) =
    some ([.noDevice 0], 1, 0x80) := by decide
/-- PT-27, and VC-12: of a stopped clock there is no tick. -/
theorem test_vcTick :
    after .vcTick (ticking common) (fun t => registerImage t.bank.val 25) = some 0x40 ∧
    after .vcTick common (fun t => registerImage t.bank.val 25) = some 0 := by decide
/-- VC-3: half a second on top of half a second is a tick, with no time left over. -/
theorem test_vcAdvance :
    (after (.vcAdvance (1 / 2)) (ticking { common with clk := { common.clk with elapsed := 1 / 2 } })
      fun t => (t.fld .frameIrq, t.clk.elapsed, t.inbox)) = some (1, 0, [.vcAdvance 0]) := by decide +kernel
/-- PT-1, and attach at an occupied address is refused. -/
theorem test_pAttach :
    after (.pAttach 1 d) State.reset (fun t => (registerImage t.bank.val 31, registerImage t.bank.val 25, t.out)) =
      some (0x40, 0x20, [.lineSet false]) ∧
    stop (.pAttach 1 d) common = some (.addressOccupied 1) := by decide
/-- R353: the device answers for endpoint 3 after another one is attached, and for none after that one is detached. -/
theorem test_topology_change :
    let s := { common with dev := [(1, { d with later := [[3], []] })] }
    after (.pAttach 2 d) s (fun t => (t.device 1).map (·.endpoints)) = some (some [3]) ∧
    run [.pAttach 2 d, .pDetach 2] s (fun t => (t.device 1).map (·.endpoints)) = some (some []) := by decide
/-- PT-2. -/
theorem test_pDetach : after (.pDetach 1) common
    (fun t => (registerImage t.bank.val 31, registerImage t.bank.val 25, t.dev)) = some (0x40, 0x20, []) := by decide
/-- PT-12 and PT-13. -/
theorem test_cbDataReady :
    after (.cbDataReady 0 9 [0x11, 0x22]) { common with pend := [⟨0, .dataReady⟩] }
      (fun t => (t.rcv.bytes, registerImage t.bank.val 25, t.pend)) = some ([0x11, 0x22], 0x84, []) ∧
    after (.cbDataReady 0 9 []) { common with pend := [⟨0, .dataReady⟩] }
      (fun t => registerImage t.bank.val 25) = some 0x80 := by decide
/-- PT-5 and PT-7: answered once, and then not enabled. -/
theorem test_cbSetupResp :
    after (.cbSetupResp 0 [0x12, 0x01]) { common with pend := [⟨0, .setupResp⟩] }
      (fun t => (t.rcv.bytes, registerImage t.bank.val 25, t.pend)) = some ([0x12, 0x01], 0x84, []) ∧
    after (.cbSetupResp 0 [9]) common (fun t => (t.rcv.bytes, registerImage t.bank.val 25)) = some ([], 0) := by decide
/-- The start of RS-1. -/
def beforeReset : State :=
  { ticking (inFrame (.writing 2) (holding .snd [1, 2] common)) with irq := true, nextId := 4, pend := [⟨3, .dataReady⟩] }
/-- RS-1: what a reset leaves. -/
theorem test_pReset_clears :
    after .pReset beforeReset (fun t => (t.bank.val, t.psm, t.snd.bytes)) = some ({}, ⟨.idle, none⟩, []) ∧
    after .pReset beforeReset (fun t => (t.clk.running, t.irq, t.pend, t.out)) =
      some (false, false, [], [.lineSet false]) := by decide
/-- RS-1: what survives it. -/
theorem test_pReset_keeps : after .pReset beforeReset (fun t => (t.cs, t.nextId, t.dev)) = some (true, 4, [(1, d)]) := by
  decide
/-- R422: no tick and no callback any more; a second disposal is refused. -/
theorem test_pDispose :
    after .pDispose (ticking { common with pend := [⟨0, .dataReady⟩] })
      (fun t => (t.clk.running, t.clk.disposed, t.pend, t.ended)) = some (false, true, [], true) ∧
    stop .pDispose (disposed common) = some .disposed := by decide
/-- P1: the command 0x7A. -/
theorem test_psmByte : after (.psmByte 0x7A) State.reset (·.psm) = some { state := .writing 15, last := some 15 } := by
  decide
/-- S1: the fall of the chip-reset bit. -/
theorem test_psmData : after (.psmData 0x00)
    (inFrame (.writing 15) (State.reset.withVal { chipRes := 1, oscOkIe := 1, ie := 1 }))
    (fun t => (t.fld .oscOkIrq, t.fld .chipRes, t.irq, t.psm.state, t.out)) =
    some (1, 0, true, .writing 15, [.lineSet true, .result (.byte 0)]) := by decide
/-- PF-2: the dummy byte's value is ignored. -/
theorem test_psmDummy : after (.psmDummy 0xFF) (inFrame (.reading 1) (holding .rcv [8, 7] State.reset))
    (fun t => (t.out, t.rcv.bytes)) = some ([.result (.byte 8)], [7]) := by decide
/-- R283: the last target is kept. -/
theorem test_psmFrameEnd : after .psmFrameEnd { State.reset with psm := ⟨.reading 3, some 3⟩ } (·.psm) =
    some ⟨.idle, some 3⟩ := by decide
/-- P1: the last target is cleared. -/
theorem test_psmReset : after .psmReset { State.reset with psm := ⟨.reading 3, some 3⟩ } (·.psm) = some ⟨.idle, none⟩ := by
  decide
/-- RB-1, and RB-31: the image of bank G. -/
theorem test_rbRead :
    after (.rbRead 25 8) (State.reset.withVal { frameIrq := 1, hxfrdnIrq := 1 }) (·.out) = some [.result (.value 0xC0)] ∧
    after (.rbRead 0x10 16) stateG (·.out) = some [.result (.value 0xABB5)] := by decide
/-- RB-2: one flag acknowledged, five recomputes; RB-32: the three modes of bank G. -/
theorem test_rbWrite :
    after (.rbWrite 25 8 0x40) (State.reset.withVal { frameIrq := 1, hxfrdnIrq := 1 })
      (fun t => (registerImage t.bank.val 25, t.out.length)) = some (0x80, 5) ∧
    run [.rbWrite 0x10 16 0x3490, .rbRead 0x10 16] stateG (·.out) = some [.result (.value 0x3425)] := by decide
/-- RB-36: a provider that reads its own bank gets 0 and a report. -/
theorem test_rbRead_reentrant : after (.rbRead 0x10 16)
    (bankReset { State.reset with par := bankG (some { body := .call (.bankRead 0x10 16 0), value := .num 0 }) })
    (fun t => (t.out, t.log)) = some ([.result (.value 0x0005)], [.reentrant 0x10]) := by decide

/-! ### Hooks of a generic bank -/

/-- RB-35: a provider's result is truncated to the field's width, and the stored value stays 0xAB. -/
theorem test_provider_truncated : after (.rbRead 0x10 16)
    (bankReset { State.reset with par := bankG (some { value := .lit 0x1FF }) })
    (fun t => (t.out, t.fld (.user 2 8))) = some ([.result (.value 0xFF05)], 0xAB) := by decide
/-- R33, R183: a provider that uses `stored`, enqueues it, tries a write to its own bank and recomputes. -/
theorem test_provider_effects : after (.rbRead 0x10 16)
    (bankReset { State.reset with par := bankG (some
      { body := .seq (.call (.enq1 .rcv .old)) (.seq (.call (.bankWrite 0x10 16 (.lit 0))) (.call .recompute))
        value := .op .add .old (.lit 1) }) })
    (fun t => (t.out, t.rcv.bytes, t.log, t.bank.busy)) =
    some ([.lineSet false, .result (.value 0xAC05)], [0xAB], [.reentrant 0x10], false) := by decide
/-- A register of 8 bits with one field and a `postWrite` hook. -/
def hooked (h : Hook) : State :=
  { State.reset with par := { exemplarParams with
      regmap := [{ name := .user 0, index := 3, reset := 0
                   fields := [{ name := .user 0 8, offset := 0, mode := .rw, postWrite := some h }] }] } }
/-- R33, R183: a write hook that dequeues the new value's count, and updates another field with the old value. -/
theorem test_hook_dequeues : after (.rbWrite 3 8 2)
    (holding .snd [1, 2, 3] (State.raw (hooked (.seq (.rep .new (.call (.deq1 .snd 0)))
      (.call (.raw .perAddr (.op .add .old (.num 0)))))) (.user 0 8) 0x85))
    (fun t => (t.snd.bytes, t.fld .perAddr, t.fld (.user 0 8))) = some ([3], 0x07, 2) := by decide
/-- R183, R230: a hook that disposes the clock and starts it leaves it disposed, and the peripheral goes on: a reset runs and
keeps the flag, a pending callback completes, and a disposal empties `pend` (R421, R338, R422). -/
theorem test_hook_disposes :
    let s := { ticking (hooked (.seq (.call .vcDispose) (.call .vcStart))) with pend := [⟨0, .dataReady⟩] }
    run [.busWrite 3 1, .pReset] s (fun t => (t.clk.running, t.clk.disposed, t.ended)) = some (false, true, false) ∧
    run [.busWrite 3 1, .cbDataReady 0 0 [7]] s (fun t => (t.rcv.bytes, t.pend)) = some ([7], []) ∧
    run [.busWrite 3 1, .pDispose] s (fun t => (t.pend, t.ended)) = some ([], true) := by decide
/-- RB-30: the declared reset value. -/
theorem test_rbReset : run [.rbReset, .rbRead 0x10 16] stateG (·.out) = some [.result (.value 0xAB05)] := by decide
/-- IA-5 and IA-6. -/
theorem test_iaRecompute :
    after .iaRecompute (State.reset.withVal { ie := 1, frameIrq := 1, frameIe := 1 }) (·.irq) = some true ∧
    after .iaRecompute (State.reset.withVal { ie := 1, frameIrq := 1, hxfrdnIe := 1 }) (·.irq) = some false := by decide
/-- R212. -/
theorem test_lineSet : after (.lineSet true) State.reset (fun t => (t.irq, t.out)) = some (true, [.lineSet true]) := by
  decide
/-- R226: stopped, and a rate that is not positive is refused. -/
theorem test_vcObtain :
    after (.vcObtain .frameTick 1000) State.reset (fun t => (t.clk.rate, t.clk.running)) = some (1000, false) ∧
    stop (.vcObtain .frameTick 0) State.reset = some (.badRate 0) := by decide
/-- VC-9: a running clock keeps its phase. -/
theorem test_vcStart :
    (after .vcStart (ticking { State.reset with clk := { State.reset.clk with elapsed := 3 / 5 } })
      fun t => t.clk.elapsed) = some (3 / 5) := by decide +kernel
/-- VC-5. -/
theorem test_vcStop : after .vcStop (ticking State.reset) (·.clk.running) = some false := by decide
/-- VC-14: a disposed clock does not start. -/
theorem test_vcDispose : run [.vcDispose, .vcStart] (ticking State.reset) (fun t => (t.clk.running, t.clk.disposed)) =
    some (false, true) := by decide
/-- FQ-2. -/
theorem test_fqEnq1 : after (.fqEnq1 .sud 9) (holding .sud [1, 2, 3, 4, 5, 6, 7, 8] State.reset)
    (fun t => (t.sud.bytes, t.log)) = some ([2, 3, 4, 5, 6, 7, 8, 9], [.fifoOverflow .sud 1]) := by decide
/-- S2a: ten bytes into a queue of eight, one report. -/
theorem test_fqEnqN : after (.fqEnqN .sud [1, 2, 3, 4, 5, 6, 7, 8, 9, 10]) State.reset (fun t => (t.sud.bytes, t.log)) =
    some ([3, 4, 5, 6, 7, 8, 9, 10], [.fifoOverflow .sud 2]) := by decide
/-- FQ-9: the first byte, and an underflow. -/
theorem test_fqDeq1 :
    after (.fqDeq1 .rcv) (holding .rcv [0xAA, 0xBB] State.reset) (fun t => (t.out, t.rcv.bytes)) =
      some ([.result (.byte 0xAA)], [0xBB]) ∧
    after (.fqDeq1 .rcv) State.reset (fun t => (t.out, t.log)) =
      some ([.result (.byte 0)], [.fifoUnderflow .rcv]) := by decide
/-- FQ-10 and FQ-11. -/
theorem test_fqDeqN :
    after (.fqDeqN .snd 5) (holding .snd [1, 2, 3] State.reset) (fun t => (t.out, t.log)) =
      some ([.result (.bytes [1, 2, 3])], []) ∧
    after (.fqDeqN .snd 2) (holding .snd [1, 2, 3, 4] State.reset) (·.snd.bytes) = some [3, 4] := by decide
/-- FQ-13. -/
theorem test_fqDeqAll : after (.fqDeqAll .sud) State.reset (fun t => (t.out, t.log)) = some ([.result (.bytes [])], []) := by
  decide
/-- FQ-14. -/
theorem test_fqCount : after (.fqCount .sud) (holding .sud [1, 2] State.reset) (·.out) = some [.result (.count 2)] := by
  decide
/-- FQ-14. -/
theorem test_fqClear : after (.fqClear .sud) (holding .sud [1, 2] State.reset) (·.sud.bytes) = some [] := by decide
/-- R324: IE = 1, FRAMEIE = 1. -/
theorem test_pFrameTick : after .pFrameTick (State.reset.withVal { ie := 1, frameIe := 1 })
    (fun t => (t.fld .frameIrq, t.irq)) = some (1, true) := by decide
/-- PT-26: the lookup comes before the endpoint check. -/
theorem test_pXfer : after (.pXfer 0x11) (common.withVal { perAddr := 2 })
    (fun t => (t.log, registerImage t.bank.val 25)) = some ([.noDevice 2], 0x80) := by decide
/-- PT-8. -/
theorem test_pSetup : after (.pSetup d) (holding .sud [1, 2, 3] common)
    (fun t => (t.log, t.sud.bytes, registerImage t.bank.val 25, t.pend)) = some ([.setupDecode 3], [], 0, []) := by decide
/-- S3, and PT-19: fewer and more bytes than declared. -/
theorem test_pBulkOut :
    after (.pBulkOut ⟨7, 2⟩) (holding .snd [0xA1, 0xA2, 0xA3] (common.withVal { sndBc := 5 }))
      (fun t => (t.log, t.out, t.snd.bytes, registerImage t.bank.val 25)) =
      some ([.byteCountMismatch 5 3], [.writeData ⟨7, 2⟩ [0xA1, 0xA2, 0xA3], .lineSet false], [], 0x88) ∧
    after (.pBulkOut ⟨7, 2⟩) (holding .snd [1, 2, 3, 4] (common.withVal { sndBc := 2 }))
      (fun t => (t.log, t.snd.bytes)) = some ([.byteCountMismatch 2 4], [3, 4]) := by decide
/-- PT-16. -/
theorem test_pBulkIn : after (.pBulkIn none) common (fun t => (registerImage t.bank.val 25, t.log, t.pend)) =
    some (0x80, [], []) := by decide

/-! ## Witnesses: for every statement with hypotheses, a state and operands that meet them all -/

theorem witness_DecodeOfEncodedIsTheInstruction :
    encode (.cmdWr 31) = some [0xFA] ∧ encode .xferHs = some [0x80] ∧
    encode (.sudDecode [1, 2, 3, 4, 5, 6, 7, 8]) = some [1, 2, 3, 4, 5, 6, 7, 8] := by decide

/-- Two bytes that differ in the ignored bits, and each mask at its lowest and its highest byte. -/
theorem witness_EveryCommandAndTransferByteDecodes :
    (0x7A#8) &&& 0xFA = (0x7F#8) &&& 0xFA ∧
    ((0x10#8) &&& 0x10 = 0x10 ∧ (0xFF#8) &&& 0x10 = 0x10) ∧ ((0x80#8) &&& 0x90 = 0x80 ∧ (0xEF#8) &&& 0x90 = 0x80) ∧
    ((0x20#8) &&& 0xB0 = 0x20 ∧ (0x6F#8) &&& 0xB0 = 0x20) ∧ ((0x00#8) &&& 0xB0 = 0x00 ∧ (0x4F#8) &&& 0xB0 = 0x00) := by
  decide

theorem witness_SetupPacketRoundTrip : [1, 2, 3, 4, 5, 6, 7, (8 : Byte)].length = 8 := by decide

theorem witness_StepTakesTheNextAgentStep :
    (State.reset.present .pReset).inbox = .pReset :: [] ∧ State.reset.inbox = [] := by decide

theorem witness_FirstByteOfAFrameRunsItsInstruction :
    let s := (inFrame .idle State.reset).present (.frXfer 0x7A)
    s.inbox = .frXfer 0x7A :: [] ∧ s.ended = false ∧ s.cs = true ∧ s.psm.state = .idle ∧
      decode .cmd8 [0x7A] = .ok (.cmdWr 15, []) := by decide

theorem witness_FrameBoundariesReturnToIdle : State.reset.ended = false := by decide

theorem witness_ByteInsideAndOutsideAFrame :
    ((inFrame .idle State.reset).ended = false ∧ (inFrame .idle State.reset).cs = true) ∧
    State.reset.ended = false ∧ State.reset.cs = false := by decide

theorem witness_CommandByteEntersItsState : State.reset.psm.state = .idle := by decide

/-- The exemplar with single-byte framing. -/
def singleByte : State := { State.reset with par := { exemplarParams with framing := .singleByte } }

theorem witness_DataByteWritesTheTarget :
    ((inFrame (.writing 31) State.reset).psm.state = .writing 31 ∧ State.reset.par.framing = .untilFrameEnd) ∧
    (inFrame (.writing 0) singleByte).psm.state = .writing 0 ∧ singleByte.par.framing = .singleByte := by decide

theorem witness_DummyByteReadsTheTarget :
    ((inFrame (.reading 31) State.reset).psm.state = .reading 31 ∧ State.reset.par.framing = .untilFrameEnd) ∧
    (inFrame (.reading 0) singleByte).psm.state = .reading 0 ∧ singleByte.par.framing = .singleByte := by decide

theorem witness_WriteFrameIsItsRegisterWrites :
    keepsFrames State.reset.par.regmap = true ∧ State.reset.ended = false ∧
      State.reset.par.framing = .untilFrameEnd ∧ (0x02#8) &&& 0x02 = 0x02 ∧
      (0xFF#8) &&& 0x02 = 0x02 := by decide

/-- The unbounded queue, a queue filled exactly, and a queue overfilled by one. -/
theorem witness_EnqueueDropsTheOldest :
    (State.reset.queue .rcv).cap = none ∧
    ((State.reset.queue .sud).cap = some 8 ∧ ((State.reset.queue .sud).bytes ++ List.replicate 8 (0 : Byte)).length ≤ 8) ∧
    (State.reset.queue .sud).cap = some 8 ∧ 8 < ((State.reset.queue .sud).bytes ++ List.replicate 9 (0 : Byte)).length := by
  decide

theorem witness_DequeueOneTakesTheOldest :
    ((holding .rcv [9] State.reset).queue .rcv).bytes = 9 :: [] ∧ (State.reset.queue .rcv).bytes = [] := by decide

theorem witness_TwoEnqueuesAreOne :
    ∃ t u w, exec (.fqEnqN .sud [1, 2, 3, 4, 5]) State.reset = .next t ∧ exec (.fqEnqN .sud [6, 7, 8, 9]) t = .next u ∧
      exec (.fqEnqN .sud ([1, 2, 3, 4, 5] ++ [6, 7, 8, 9])) State.reset = .next w ∧
      (State.reset.queue .sud).cap = some 8 := ⟨_, _, _, rfl, rfl, rfl, rfl⟩

theorem withinCap_reset : ∀ q c, (State.reset.queue q).cap = some c → (State.reset.queue q).bytes.length ≤ c := by
  intro q c h
  cases q <;> exact Nat.zero_le c

theorem witness_QueuesStayWithinCapacity :
    (∃ t, exec (.fqEnqN .sud (List.replicate 9 0)) State.reset = .next t) ∧
    ∀ q c, (State.reset.queue q).cap = some c → (State.reset.queue q).bytes.length ≤ c :=
  ⟨⟨_, rfl⟩, withinCap_reset⟩

theorem witness_LineIsAtTheFormulaAfterEveryStep :
    common.exemplar ∧ (common.present (.pDetach 1)).irq = lineFormula (common.present (.pDetach 1)).bank.val ∧
      ∃ t, step (common.present (.pDetach 1)) = .next t := ⟨⟨rfl, rfl⟩, rfl, _, rfl⟩

/-- The exemplar in a frame that writes HXFR, with the device d addressed. -/
def triggering : State := inFrame (.writing 30) common

/-- Each clear flag is set by an event the statement names; HXFRDNIRQ by each kind of completion. -/
theorem witness_RequestFlagsAreSetByTheirEventsAlone :
    State.reset.exemplar ∧
    ([State.reset, common, triggering].all fun s => requestFlags.all fun f => s.fld f == 0) = true ∧
    (after .vcTick (ticking State.reset) (·.fld .frameIrq) = some 1 ∧
      (after (.vcAdvance 1) (ticking State.reset) fun t => t.fld .frameIrq) = some 1) ∧
    (after (.pAttach 0 d) State.reset (·.fld .condetIrq) = some 1 ∧ after (.pDetach 1) common (·.fld .condetIrq) = some 1) ∧
    (after (.cbDataReady 0 0 [3]) { common with pend := [⟨0, .dataReady⟩] } (·.fld .rcvDavIrq) = some 1 ∧
      after (.cbSetupResp 0 [3]) { common with pend := [⟨0, .setupResp⟩] } (·.fld .rcvDavIrq) = some 1) ∧
    (after (.busWrite 15 0) (State.reset.withVal { chipRes := 1 }) (·.fld .oscOkIrq) = some 1 ∧
      after (.frXfer 0xDF) (inFrame (.writing 15) (State.reset.withVal { chipRes := 1 })) (·.fld .oscOkIrq) = some 1) ∧
    (after (.frXfer 0x21) triggering (·.fld .sndBavIrq) = some 1 ∧
      after (.busWrite 30 0x22) common (·.fld .sndBavIrq) = some 1) :=
  ⟨⟨rfl, rfl⟩, by decide, by decide +kernel, by decide, by decide, by decide, by decide⟩

theorem witness_RequestFlagsAreSetByTheirEventsAlone_hxfrdn :
    [.cbDataReady 0 0 [], .cbSetupResp 1 []].all (fun i =>
      after i { common with pend := [⟨0, .dataReady⟩, ⟨1, .setupResp⟩] } (·.fld .hxfrdnIrq) == some 1) = true ∧
    after (.busWrite 30 0x10) State.reset (·.fld .hxfrdnIrq) = some 1 ∧
    [.frXfer 0x80, .frXfer 0x00, .frXfer 0x0F, .frXfer 0x20, .frXfer 0x2F, .frXfer 0x21].all (fun i =>
      after i triggering (·.fld .hxfrdnIrq) == some 1) = true := by decide

/-- A state whose named fields are all within their widths. -/
theorem bounded_of_named (s : State) (ho : s.bank.val.other = [])
    (h : (([.rcvData, .sndData, .sudData, .sndBc, .oscOkIrq, .oscOkIe, .chipRes, .ie, .rcvDavIrq, .sndBavIrq, .condetIrq,
      .frameIrq, .hxfrdnIrq, .rcvDavIe, .sndBavIe, .condetIe, .frameIe, .hxfrdnIe, .sofKaEnab, .perAddr, .hxfr,
      .busState] : List FieldId).all fun f => decide (s.fld f < 2 ^ f.width)) = true) : s.bounded := by
  intro f
  cases f with
  | user n w => simp [State.fld, FieldVals.get, otherGet, ho, keyGet, FieldId.width]
  | _ => simp only [List.all_eq_true, decide_eq_true_eq] at h; exact h _ (by decide)

theorem witness_WriteBackAcknowledgesOnlyWhatWasRead :
    let s := ticking (State.reset.withVal { hxfrdnIrq := 1 })
    s.ready ∧ s.bounded ∧ s.ended = false ∧ s.clk.disposed = false ∧ s.clk.running = true ∧
      (0x80#8).toNat = registerImage s.bank.val 25 ∧
      ∃ s1 s2, exec (.busRead 25) s = .next s1 ∧ exec .vcTick s1 = .next s2 :=
  ⟨⟨⟨rfl, rfl⟩, rfl⟩, bounded_of_named _ rfl (by decide), rfl, rfl, rfl, by decide, _, _, rfl, rfl⟩

theorem witness_ClockObtainStartStopDispose : 0 < 1 ∧ (0 : Int) ≤ 0 ∧ (-1 : Int) ≤ 0 := by decide

theorem witness_TickSetsTheFrameFlag :
    (ticking State.reset).clk.running = true ∧ (ticking State.reset).clk.disposed = false := by decide

/-- A stopped clock; just short of the period; exactly at it. -/
theorem witness_AdvanceTakesOneTickAtATime :
    ((0 : Rat) ≤ 0 ∧ State.reset.clk.running = false) ∧
    ((0 : Rat) ≤ 9 / 10 ∧ (ticking State.reset).clk.running = true ∧ (ticking State.reset).clk.disposed = false ∧
      (ticking State.reset).clk.elapsed + 9 / 10 < 1 / ((ticking State.reset).clk.rate : Rat)) ∧
    (0 : Rat) ≤ 1 ∧ 1 / ((ticking State.reset).clk.rate : Rat) ≤ (ticking State.reset).clk.elapsed + 1 := by
  decide +kernel

theorem clockInv_ticking : ClockInv (ticking State.reset).clk :=
  ⟨by decide, by decide +kernel, fun h => absurd h (by decide), fun h => absurd h (by decide)⟩

theorem witness_UninterruptedAdvanceFiresFloorTicks :
    (0 : Rat) ≤ 5 / 2 ∧ ClockInv (ticking State.reset).clk ∧ (ticking State.reset).clk.running = true ∧
      ((ticking State.reset).present (.vcAdvance (5 / 2))).inbox = [.vcAdvance (5 / 2)] :=
  ⟨by decide +kernel, clockInv_ticking, rfl, rfl⟩

theorem witness_DisposalEndsTheRun :
    State.reset.ended = false ∧ ((disposed State.reset).present .vcTick).ended = true ∧
      ((disposed State.reset).present .vcTick).clk.disposed = true ∧
      ∃ t, step ((disposed State.reset).present .vcTick) = .next t := ⟨rfl, rfl, rfl, _, rfl⟩

/-- The guard set; the guard clear and another width; the right width and an offset with no register. -/
theorem witness_AccessChecksInOrder :
    (State.reset.setBusy true).bank.busy = true ∧
    (State.reset.bank.busy = false ∧ 7 ≠ State.reset.par.width ∧ 9 ≠ State.reset.par.width) ∧
    State.reset.bank.busy = false ∧ 8 = State.reset.par.width ∧ ∀ r ∈ State.reset.par.regmap, r.index ≠ 32 := by decide

theorem witness_BusAccessIsABankAccess :
    State.reset.ended = false ∧ keepsFrames State.reset.par.regmap = true := by decide

/-- Below the index space, its unmapped ends, and above it. -/
theorem witness_UnmappedOffsetsOfTheExemplar :
    State.reset.ready ∧ State.reset.ended = false ∧ (-1) ∉ exemplarIndices ∧ 0 ∉ exemplarIndices ∧
      29 ∉ exemplarIndices ∧ 32 ∉ exemplarIndices := ⟨⟨⟨rfl, rfl⟩, rfl⟩, by decide⟩

theorem witness_RegisterReadsReturnTheImage :
    common.ready ∧ common.bounded ∧ 2 ∈ exemplarIndices ∧ (2 : Int) ≠ 1 ∧ 31 ∈ exemplarIndices :=
  ⟨⟨⟨rfl, rfl⟩, rfl⟩, bounded_of_named _ rfl (by decide), by decide⟩

theorem witness_ReceiveRegisterDequeues :
    (holding .rcv [0xFF] State.reset).ready ∧ (holding .rcv [0xFF] State.reset).rcv.bytes = 0xFF :: [] ∧
      State.reset.ready ∧ State.reset.rcv.bytes = [] := ⟨⟨⟨rfl, rfl⟩, rfl⟩, rfl, ⟨⟨rfl, rfl⟩, rfl⟩, rfl⟩

/-- The statements from here whose one hypothesis is the exemplar's bank at rest. -/
theorem witness_PlainAndFifoRegisterWrites : common.ready := ⟨⟨rfl, rfl⟩, rfl⟩
theorem witness_EnableRegisterWrites : common.ready := ⟨⟨rfl, rfl⟩, rfl⟩
theorem witness_ChipResetFallRaisesOscillatorOk :
    (State.reset.withVal { chipRes := 1 }).ready ∧ (State.reset.withVal { chipRes := 1 }).bank.val.chipRes = 1 ∧
      0xDF / 32 % 2 = 0 ∧ 0x20 / 32 % 2 = 1 := ⟨⟨⟨rfl, rfl⟩, rfl⟩, rfl, by decide⟩
theorem witness_ModeRegisterWriteRunsTheClock : common.ready := ⟨⟨rfl, rfl⟩, rfl⟩
theorem witness_TransferRegisterWriteTriggers : common.ready := ⟨⟨rfl, rfl⟩, rfl⟩

theorem witness_PendingRegisterWritesClear :
    (State.reset.withVal { frameIrq := 1, oscOkIrq := 1 }).ready ∧
      (State.reset.withVal { frameIrq := 1, oscOkIrq := 1 }).bounded :=
  ⟨⟨⟨rfl, rfl⟩, rfl⟩, bounded_of_named _ rfl (by decide)⟩

/-- Bank G, whose one register has a field of each of three modes and no hooks. -/
theorem witness_ReadAfterWriteByMode :
    regmapWf stateG.par.width stateG.par.regmap = true ∧ stateG.bank.busy = false ∧
      ∃ r ∈ stateG.par.regmap, r.index = 0x10 ∧
        ∀ f ∈ r.fields, f.provider = none ∧ f.writeEffect = none ∧ f.postWrite = none := by decide

/-- SNDFIFO of the exemplar: a write-only field with a `writeEffect` that updates no field. -/
theorem witness_ReadAfterWriteByMode_hooked :
    regmapWf common.par.width common.par.regmap = true ∧ common.bank.busy = false ∧
    regSndFifo ∈ common.par.regmap ∧ regSndFifo.index = 2 ∧
    (∀ f ∈ regSndFifo.fields, f.mode = .wo ∨ f.provider = none) ∧
    ∀ f ∈ regSndFifo.fields, ∀ h, f.writeEffect = some h ∨ f.postWrite = some h →
      ∀ g ∈ regSndFifo.fields, ∀ (old new : Nat) (u : State), (callHook h old new u).fld g.name = u.fld g.name := by
  refine ⟨by decide, rfl, by decide, rfl, by decide, ?_⟩
  intro f hf h hh g hg old new u
  simp only [regSndFifo, List.mem_singleton] at hf
  subst hf
  obtain rfl : enqueueHook .snd = h := by simpa using hh
  rw [callHook_enqueue, State.fld_eq, State.fld_eq, enq1, enqN_bank]

/-- A field whose provider and hook both read and write their own bank. -/
theorem witness_HookBankAccessIsRefused :
    let h : Hook := .seq (.call (.bankRead 3 8 0)) (.call (.bankWrite 4 8 .new))
    let f : Field := { name := .user 0 8, offset := 0, mode := .rw, provider := some ⟨h, .num 0⟩, postWrite := some h }
    let r : Register := { name := .user 0, index := 3, reset := 0, fields := [f] }
    let s : State := { State.reset with par := { exemplarParams with regmap := [r] } }
    regmapWf s.par.width s.par.regmap = true ∧ s.bank.busy = false ∧ findRegister s.par.regmap 3 = some r ∧
      r.fields = [f] ∧ f.mode = .rw ∧ f.writeEffect = none := by decide

/-- HRSL of the exemplar: 0xC0 and 0xFF agree on its field, and bit 5 is reserved. -/
theorem witness_ReservedBitsAreDropped :
    common.bank.busy = false ∧ common.bounded ∧ findRegister common.par.regmap 31 = some regHrsl ∧
    (∀ f ∈ regHrsl.fields, ∀ k, f.offset ≤ k → k < f.offset + f.width → Nat.testBit 0xC0 k = Nat.testBit 0xFF k) ∧
    ∀ f ∈ regHrsl.fields, ¬ (f.offset ≤ 5 ∧ 5 < f.offset + f.width) := by
  refine ⟨rfl, bounded_of_named _ rfl (by decide), rfl, ?_, by decide⟩
  intro f hf k h1 h2
  obtain rfl : f = { name := .busState, offset := 6, mode := .ro } := by simpa [regHrsl] using hf
  have hk : k = 6 ∨ k = 7 := by simp [Field.width, FieldId.width] at h1 h2; omega
  rcases hk with rfl | rfl <;> rfl

theorem witness_BankResetRestoresDeclaredValues : regmapWf stateG.par.width stateG.par.regmap = true := by decide

theorem witness_ReadWriteFieldsChangeOnlyByBusWrites :
    State.reset.exemplar ∧ (∃ t, exec (.busWrite 7 1) State.reset = .next t) ∧
    after (.busWrite 7 1) State.reset (·.fld .sndBc) = some 1 ∧ State.reset.fld .sndBc ≠ 1 :=
  ⟨⟨rfl, rfl⟩, ⟨_, rfl⟩, by decide, by decide⟩

theorem witness_ExemplarNeverReportsContractBreaches :
    (State.reset.present (.busRead 0)).ready ∧
    (match step (State.reset.present (.busRead 0)) with | .next t => decide (.unmappedRead 0 ∈ t.log) | _ => false) = true ∧
    .unmappedRead 0 ∉ (State.reset.present (.busRead 0)).log := ⟨⟨⟨rfl, rfl⟩, rfl⟩, by decide, by decide⟩

/-- The lowest and the highest address, an occupied one, the first one outside, and one with no device. -/
theorem witness_AttachAndDetachSetTheFlag :
    common.ended = false ∧ ((0 < 128 ∧ common.device 0 = none) ∧ 127 < 128 ∧ common.device 127 = none) ∧
    (1 < 128 ∧ common.device 1 ≠ none) ∧ 128 ≤ 128 ∧ common.device 128 = none := by decide

/-- The transfer bytes of both clauses: no device at address 0, and d at address 1. -/
theorem witness_TriggerLooksUpTheDeviceFirst :
    decode .xfr8 [0x22] = .ok (.xferOut 2, []) ∧ State.reset.device State.reset.bank.val.perAddr = none ∧
      common.device common.bank.val.perAddr = some d := by decide

theorem witness_SetupAndHandshakeRequests :
    common.device common.bank.val.perAddr = some d ∧ (1#4) ≠ 0 ∧ (15#4) ≠ 0 := by decide

/-- Two indices the device has not, the highest among them, and the lowest it has. -/
theorem witness_DataRequestsResolveTheEndpoint :
    common.device common.bank.val.perAddr = some d ∧ ((3#4) ≠ 0 ∧ (3#4).toNat ∉ d.endpoints) ∧
    ((15#4) ≠ 0 ∧ (15#4).toNat ∉ d.endpoints) ∧ (1#4) ≠ 0 ∧ (1#4).toNat ∈ d.endpoints := by decide

/-- No device at address 0; a byte in Idle, and in the state of the other direction. -/
theorem witness_InternalOperationsTakenByThemselves :
    (decode .xfr8 [0x80] = .ok (.xferHs, []) ∧ State.reset.device State.reset.bank.val.perAddr = none) ∧
    ((∀ t, State.reset.psm.state ≠ .writing t) ∧ ∀ t, State.reset.psm.state ≠ .reading t) ∧
    (∀ t, (inFrame (.reading 31) State.reset).psm.state ≠ .writing t) ∧
    ∀ t, (inFrame (.writing 31) State.reset).psm.state ≠ .reading t :=
  ⟨by decide, ⟨nofun, nofun⟩, nofun, nofun⟩

/-- Seven bytes and eight. -/
theorem witness_SetupTransactionDrainsAndHandsOver :
    (holding .sud (List.replicate 7 0) common).sud.bytes.length < 8 ∧
    8 ≤ (holding .sud (List.replicate 8 0) common).sud.bytes.length := by decide

theorem witness_CallbacksCompletePendingSubscriptions :
    let s := { common with pend := [⟨0, .dataReady⟩, ⟨1, .setupResp⟩] }
    s.ended = false ∧ ⟨0, .dataReady⟩ ∈ s.pend ∧ ⟨1, .setupResp⟩ ∈ s.pend ∧ ⟨1, .dataReady⟩ ∉ s.pend ∧
      ⟨0, .setupResp⟩ ∉ s.pend := by decide

/-- A stopped and a disposed clock; an identifier never issued, and one of the other kind; a callback that fires; a reset. -/
theorem witness_EventsNotEnabledChangeNothing :
    (common.clk.running = false ∧ (disposed (ticking common)).clk.disposed = true) ∧
    (⟨0, .dataReady⟩ ∉ common.pend ∧ ⟨0, .setupResp⟩ ∉ ({ common with pend := [⟨0, .dataReady⟩] } : State).pend) ∧
    (∃ t, exec (.cbDataReady 0 0 [3]) { common with pend := [⟨0, .dataReady⟩] } = .next t) ∧
    (∃ t, exec (.cbSetupResp 0 []) { common with pend := [⟨0, .setupResp⟩] } = .next t) ∧
    ∃ u, exec .pReset { common with pend := [⟨0, .dataReady⟩] } = .next u :=
  ⟨by decide, by decide, ⟨_, rfl⟩, ⟨_, rfl⟩, ⟨_, rfl⟩⟩

theorem witness_PeripheralResetLeavesTheResetState : beforeReset.exemplar ∧ beforeReset.ended = false :=
  ⟨⟨rfl, rfl⟩, rfl⟩

/-- A state far from reset: a running clock half-way to its tick, full queues, a pending subscription, a device at the
highest address, a pending and enabled flag with the line asserted. -/
def working : State :=
  { State.reset.withVal { ie := 1, frameIrq := 1, frameIe := 1, sofKaEnab := 1, perAddr := 127, busState := 3 } with
    irq := true
    clk := { callback := .frameTick, rate := 1, running := true, disposed := false, elapsed := 1 / 2 }
    sud := { bytes := List.replicate 8 0xAA, cap := some 8 }
    pend := [⟨0, .setupResp⟩, ⟨2, .dataReady⟩]
    nextId := 3
    dev := [(0, d), (127, d)]
    inbox := [.busWrite 30 0x10] }

theorem inv_working : Inv working where
  ready := ⟨⟨rfl, rfl⟩, rfl⟩
  bounded := bounded_of_named _ rfl (by decide)
  line := by decide
  sudCap := by decide
  sndCap := by decide
  rcvCap := fun _ _ => Nat.zero_le _
  pendOrder := by decide
  pendOld := by decide
  pendLive := by decide
  disposal := rfl
  memory := by decide
  addresses := by decide
  clock := ⟨by decide, by decide +kernel, fun h => absurd h (by decide), fun h => absurd h (by decide)⟩
  enabled := by decide

theorem witness_EveryStepKeepsTheInvariant : Inv working ∧ ∃ t, step working = .next t := ⟨inv_working, _, rfl⟩

/-- A step that subscribes: the new subscription is ⟨3, .setupResp⟩, with the counter at 3 before and 4 after. -/
theorem witness_HistoryOnlyGrows : ∃ t, exec (.busWrite 30 0x10) working = .next t ∧
    ⟨3, .setupResp⟩ ∈ t.pend ∧ ⟨3, .setupResp⟩ ∉ working.pend ∧ working.nextId = 3 ∧ t.nextId = 4 :=
  ⟨_, rfl, by decide, by decide, rfl, by decide⟩

theorem witness_LogAndLastTargetInfluenceNothing :
    common.visible = { common with log := [.noDevice 5], out := [.lineSet true], psm := ⟨.idle, some 7⟩ }.visible := by
  decide

end Sys2Proof.Tests
end

/-! The register-bank family: a bus-side access to the exemplar's bank between accesses, first as rules about the guard
flag and about the registers, then the statements about the unmapped offsets (R69, R105), RCVFIFO (R55), USBCTL (R61) and
MODE (R65). -/

namespace Sys2Proof.Machine

/-! ### The operations of a bank access -/

theorem exec_rbRead_eq (offset : Int) (width : Nat) (s : State) : exec (.rbRead offset width) s =
    .next ((bankRead offset width s).2.result (.value (bankRead offset width s).1)) := rfl

theorem exec_rbWrite_eq (offset : Int) (width value : Nat) (s : State) :
    exec (.rbWrite offset width value) s = .next (bankWrite offset width value s) := rfl

theorem exec_busRead_eq {s : State} (offset : Int) (he : s.ended = false) : exec (.busRead offset) s =
    .next ((bankRead offset 8 s).2.result (.byte (BitVec.ofNat 8 (bankRead offset 8 s).1))) := by
  change live s _ = _
  rw [live, he]
  rfl

theorem exec_busWrite_eq {s : State} (offset : Int) (v : Byte) (he : s.ended = false) :
    exec (.busWrite offset v) s = .next (bankWrite offset 8 v.toNat s) := by
  change live s _ = _
  rw [live, he]
  rfl

/-! ### The guard flag

The shared operations do not look at the guard, so an access may run them on the state without it. -/

theorem State.setBusy_eq_self {s : State} {b : Bool} (h : s.bank.busy = b) : s.setBusy b = s := by
  subst h
  rfl

/-- An access sets the guard and clears it: outside the access it is as it was (R41). -/
theorem State.setBusy_setBusy_eq_self {s : State} (a : Bool) {b : Bool} (h : s.bank.busy = b) :
    (s.setBusy a).setBusy b = s := State.setBusy_eq_self (s := s) h

theorem State.setFld_setBusy (s : State) (b : Bool) (f : FieldId) (v : Nat) :
    (s.setBusy b).setFld f v = (s.withVal (s.bank.val.set f v)).setBusy b := rfl

theorem raiseFlag_setBusy (f : FieldId) (b : Bool) (s : State) :
    raiseFlag f (s.setBusy b) = (raiseFlag f s).setBusy b := rfl

theorem deq1_setBusy (q : QueueId) (b : Bool) (s : State) :
    deq1 q (s.setBusy b) = ((deq1 q s).1, (deq1 q s).2.setBusy b) := by
  have hq : (s.setBusy b).queue q = s.queue q := by cases q <;> rfl
  cases hb : (s.queue q).bytes with
  | nil =>
    rw [deq1_nil hb, deq1_nil (by rw [hq, hb])]
    rfl
  | cons x xs =>
    rw [deq1_cons hb, deq1_cons (by rw [hq, hb])]
    cases q <;> rfl

theorem clockStart_setBusy (b : Bool) (s : State) : clockStart (s.setBusy b) = (clockStart s).setBusy b := by
  unfold clockStart
  rw [State.setBusy_clk]
  split <;> rfl

theorem clockStop_setBusy (b : Bool) (s : State) : clockStop (s.setBusy b) = (clockStop s).setBusy b := rfl

@[simp] theorem clockStart_bank (s : State) : (clockStart s).bank = s.bank := by
  unfold clockStart
  split <;> rfl

/-! ### Accesses to the exemplar's bank between accesses -/

/-- An index outside the 14 of R54 has no register (R69). -/
theorem findRegister_unmapped {offset : Int} (h : offset ∉ exemplarIndices) : findRegister exemplarMap offset = none :=
  (findRegister_eq_none _ _).2 h

section
variable {s : State} {offset : Int}

theorem State.ready.bankRead_unmapped (hs : s.ready) (h : offset ∉ exemplarIndices) :
    bankRead offset 8 s = (0, s.report (.unmappedRead offset)) := by
  obtain ⟨⟨hw, hm⟩, hb⟩ := hs
  rw [← hw]
  exact Machine.bankRead_unmapped hb (hm ▸ findRegister_unmapped h)

theorem State.ready.bankWrite_unmapped (hs : s.ready) (h : offset ∉ exemplarIndices) (value : Nat) :
    bankWrite offset 8 value s = s.report (.unmappedWrite offset value) := by
  obtain ⟨⟨hw, hm⟩, hb⟩ := hs
  rw [← hw]
  exact Machine.bankWrite_unmapped value hb (hm ▸ findRegister_unmapped h)

variable {r : Register}

theorem State.ready.bankRead_declared (hs : s.ready) (hr : findRegister exemplarMap offset = some r) :
    bankRead offset 8 s =
      ((readFields r.fields 0 (s.setBusy true)).1, (readFields r.fields 0 (s.setBusy true)).2.setBusy false) := by
  obtain ⟨⟨hw, hm⟩, hb⟩ := hs
  rw [← hw]
  exact Machine.bankRead_declared hb (hm ▸ hr)

theorem State.ready.exec_rbWrite_declared (hs : s.ready) (hr : findRegister exemplarMap offset = some r)
    (value : Nat) : exec (.rbWrite offset 8 value) s = .next (writeRegister r value s) := by
  obtain ⟨⟨hw, hm⟩, hb⟩ := hs
  rw [exec_rbWrite_eq, ← hw, bankWrite_declared value hb (hm ▸ hr)]

/-- A write to a register with one read-write field stores the field's part of the value, then calls its hooks with the
value before and after (R176, R177, R181). -/
theorem writeRegister_single_rw {f : Field} (hf : r.fields = [f]) (hm : f.mode = .rw)
    (hin : f.offset + f.width ≤ s.par.width) (value : Nat) :
    writeRegister r value s =
      (callPresent f.postWrite (s.fld f.name) (value / 2 ^ f.offset % 2 ^ f.width)
        (callPresent f.writeEffect (s.fld f.name) (value / 2 ^ f.offset % 2 ^ f.width)
          ((s.withVal (s.bank.val.set f.name (value / 2 ^ f.offset % 2 ^ f.width))).setBusy true))).setBusy false := by
  simp only [writeRegister, hf, storeFields, storeField, runHooks, fieldHooks, hm, fieldPart_eq hin,
    State.setFld_setBusy, State.setBusy_val, State.withVal_bank, FieldVals.get_set_self, State.fld_eq]

end

/-! ### RCVFIFO -/

/-- The one field of RCVFIFO reads through its provider: the dequeued byte, which its width of 8 leaves whole (R55). -/
theorem readFields_rcvFifo (s : State) :
    readFields regRcvFifo.fields 0 s = ((deq1 .rcv s).1.toNat, (deq1 .rcv s).2) := by
  have htrunc : trunc 8 (deq1 .rcv s).1.toNat = (deq1 .rcv s).1.toNat := Nat.mod_eq_of_lt (deq1 .rcv s).1.isLt
  change (0 ||| trunc 8 (deq1 .rcv s).1.toNat <<< 0, (deq1 .rcv s).2) = _
  rw [htrunc, Nat.shiftLeft_zero, Nat.zero_or]

/-- A read of RCVFIFO is a dequeue of the receive queue (R55). -/
theorem State.ready.bankRead_rcvFifo {s : State} (hs : s.ready) :
    bankRead 1 8 s = ((deq1 .rcv s).1.toNat, (deq1 .rcv s).2) := by
  have hguard : (deq1 .rcv s).2.bank.busy = false := by rw [deq1_bank]; exact hs.2
  rw [hs.bankRead_declared findRegister_rcvFifo, readFields_rcvFifo, deq1_setBusy,
    State.setBusy_setBusy_eq_self true hguard]

/-- RCVFIFO's one field is read-only, so a write stores nothing and calls nothing (R179, R181). -/
theorem writeRegister_rcvFifo (value : Nat) (s : State) : writeRegister regRcvFifo value s = s.setBusy false := rfl

/-! ### USBCTL and MODE -/

/-- A write to USBCTL (R61). -/
theorem State.ready.writeRegister_usbCtl {s : State} (hs : s.ready) (value : Nat) :
    writeRegister regUsbCtl value s =
      if s.bank.val.chipRes = 1 ∧ value / 32 % 2 = 0
      then raiseFlag .oscOkIrq (s.withVal { s.bank.val with chipRes := value / 32 % 2 })
      else s.withVal { s.bank.val with chipRes := value / 32 % 2 } := by
  obtain ⟨⟨hw, -⟩, hb⟩ := hs
  rw [writeRegister_single_rw (r := regUsbCtl) rfl rfl (by rw [hw]; decide)]
  change State.setBusy (callHook oscOkHook s.bank.val.chipRes (value / 32 % 2)
    ((s.withVal { s.bank.val with chipRes := value / 32 % 2 }).setBusy true)) false = _
  rw [callHook_oscOk]
  split
  · rw [raiseFlag_setBusy]
    exact State.setBusy_setBusy_eq_self true hb
  · exact State.setBusy_setBusy_eq_self true hb

/-- A write to MODE (R65): the hook runs whatever the old value. -/
theorem State.ready.writeRegister_mode {s : State} (hs : s.ready) (value : Nat) :
    writeRegister regMode value s =
      if value / 8 % 2 = 1 then clockStart (s.withVal { s.bank.val with sofKaEnab := value / 8 % 2 })
      else clockStop (s.withVal { s.bank.val with sofKaEnab := value / 8 % 2 }) := by
  obtain ⟨⟨hw, -⟩, hb⟩ := hs
  rw [writeRegister_single_rw (r := regMode) rfl rfl (by rw [hw]; decide)]
  change State.setBusy (callHook clockHook s.bank.val.sofKaEnab (value / 8 % 2)
    ((s.withVal { s.bank.val with sofKaEnab := value / 8 % 2 }).setBusy true)) false = _
  rw [callHook_clock]
  split
  · rw [clockStart_setBusy]
    exact State.setBusy_setBusy_eq_self true (by rw [clockStart_bank]; exact hb)
  · rw [clockStop_setBusy]
    exact State.setBusy_setBusy_eq_self true hb

/-! ### The statements -/

/-- Settles O29: the unmapped check is the one that answers, for a read and for a write. -/
theorem unmappedOffsetsOfTheExemplar : Obligations.UnmappedOffsetsOfTheExemplar := by
  intro s offset v hs he ho
  constructor
  · rw [exec_busRead_eq offset he, hs.bankRead_unmapped ho]
    rfl
  · rw [exec_busWrite_eq offset v he, hs.bankWrite_unmapped ho]
    rfl

/-- Settles O31, by the two cases of a dequeue. -/
theorem receiveRegisterDequeues : Obligations.ReceiveRegisterDequeues := by
  intro s value hs
  have hread := hs.bankRead_rcvFifo
  refine ⟨fun b rest hq => ?_, fun hq => ?_, ?_⟩
  · rw [deq1_cons (q := .rcv) hq] at hread
    rw [exec_rbRead_eq, hread]
    rfl
  · rw [deq1_nil (q := .rcv) hq] at hread
    rw [exec_rbRead_eq, hread]
    rfl
  · rw [hs.exec_rbWrite_declared findRegister_rcvFifo, writeRegister_rcvFifo, State.setBusy_eq_self hs.2]

/-- Settles O35, by whether the bit falls from 1 to 0. -/
theorem chipResetFallRaisesOscillatorOk : Obligations.ChipResetFallRaisesOscillatorOk := by
  intro s value hs
  rw [hs.exec_rbWrite_declared findRegister_usbCtl, hs.writeRegister_usbCtl]
  split
  case isTrue hfall =>
    rw [raiseFlag_eq, hfall.2]
    rfl
  case isFalse => rfl

/-- Settles O36, by the value stored in SOFKAENAB. -/
theorem modeRegisterWriteRunsTheClock : Obligations.ModeRegisterWriteRunsTheClock := by
  intro s value hs
  rw [hs.exec_rbWrite_declared findRegister_mode, hs.writeRegister_mode]
  refine ⟨_, ?_, rfl⟩
  split <;> rfl

end Sys2Proof.Machine

/-! The encoding family: a byte's masks read as facts about its bits, then the command byte (R136, R138) and the
transfer-control byte (R140) in terms of those bits. -/

namespace Sys2Proof

/-! ### Masks -/

/-- A masked comparison fixes exactly the bits the mask selects. -/
theorem and_eq_iff_getLsbD {w : Nat} {x m p : BitVec w} (hp : p &&& m = p) :
    x &&& m = p ↔ ∀ i : Fin w, m.getLsbD i = true → x.getLsbD i = p.getLsbD i := by
  constructor
  · rintro rfl i hm
    rw [BitVec.getLsbD_and, hm, Bool.and_true]
  · intro h
    rw [← hp]
    refine BitVec.eq_of_getLsbD_eq fun i hi => ?_
    rw [BitVec.getLsbD_and, BitVec.getLsbD_and]
    cases hm : m.getLsbD i with
    | false => rw [Bool.and_false, Bool.and_false]
    | true => rw [h ⟨i, hi⟩ hm]

section
variable (v : Byte)

/-- The write mask of a command byte (R134). -/
theorem and_0x02_eq_iff : v &&& 0x02 = 0x02 ↔ v.getLsbD 1 = true := by
  rw [and_eq_iff_getLsbD (by decide)]
  simp [Fin.forall_fin_succ]

/-- The setup mask (R140). -/
theorem and_0x10_eq_iff : v &&& 0x10 = 0x10 ↔ v.getLsbD 4 = true := by
  rw [and_eq_iff_getLsbD (by decide)]
  simp [Fin.forall_fin_succ]

/-- The handshake mask (R140). -/
theorem and_0x90_eq_0x80_iff : v &&& 0x90 = 0x80 ↔ v.getLsbD 4 = false ∧ v.getLsbD 7 = true := by
  rw [and_eq_iff_getLsbD (by decide)]
  simp [Fin.forall_fin_succ]

/-- The mask of a data transfer out (R140). -/
theorem and_0xB0_eq_0x20_iff :
    v &&& 0xB0 = 0x20 ↔ v.getLsbD 4 = false ∧ v.getLsbD 5 = true ∧ v.getLsbD 7 = false := by
  rw [and_eq_iff_getLsbD (by decide)]
  simp [Fin.forall_fin_succ]

/-- The mask of a data transfer in (R140). -/
theorem and_0xB0_eq_0x00_iff :
    v &&& 0xB0 = 0x00 ↔ v.getLsbD 4 = false ∧ v.getLsbD 5 = false ∧ v.getLsbD 7 = false := by
  rw [and_eq_iff_getLsbD (by decide)]
  simp [Fin.forall_fin_succ]

end

/-! ### The command byte -/

section
variable (b : Byte)

theorem commandIndex_eq_ofNat : commandIndex b = BitVec.ofNat 5 (b.toNat >>> 3) := rfl

theorem commandDir_eq_true_iff : commandDir b = true ↔ b &&& 0x02 = 0x02 := (and_0x02_eq_iff b).symm

theorem toInstr_decodeCommand : (decodeCommand b).toInstr =
    if commandDir b then .cmdWr (commandIndex b) else .cmdRd (commandIndex b) := by
  unfold decodeCommand
  split <;> rfl

/-- The mask 0xFA keeps bits 7 to 3, which are the target. -/
theorem commandIndex_and_0xFA : commandIndex (b &&& 0xFA) = commandIndex b := by
  have hmask : (0xFA : Byte).extractLsb' 3 5 = BitVec.allOnes 5 := by decide
  rw [commandIndex, BitVec.extractLsb'_and, hmask, BitVec.and_allOnes, commandIndex]

/-- The mask 0xFA keeps bit 1, which is the direction. -/
theorem commandDir_and_0xFA : commandDir (b &&& 0xFA) = commandDir b := by
  have hmask : (0xFA : Byte).getLsbD 1 = true := by decide
  rw [commandDir, BitVec.getLsbD_and, hmask, Bool.and_true, commandDir]

/-- Bits 0 and 2, which the mask 0xFA clears, take no part in the decode (R136). -/
theorem decodeCommand_and_0xFA : decodeCommand (b &&& 0xFA) = decodeCommand b := by
  rw [decodeCommand, commandIndex_and_0xFA, commandDir_and_0xFA, decodeCommand]

end

theorem decodeCommand_congr_of_and_0xFA {b c : Byte} (h : b &&& 0xFA = c &&& 0xFA) :
    decodeCommand b = decodeCommand c := by
  rw [← decodeCommand_and_0xFA b, h, decodeCommand_and_0xFA]

theorem decode_cmd8_cons (b : Byte) (rest : List Byte) :
    decode .cmd8 (b :: rest) = .ok ((decodeCommand b).toInstr, rest) := rfl

/-! ### The transfer-control byte -/

theorem decode_xfr8_cons (v : Byte) (rest : List Byte) :
    decode .xfr8 (v :: rest) = .ok ((decodeTransfer v).toInstr, rest) := rfl

section
variable {v : Byte}

theorem transferEp_eq_ofNat : transferEp v = BitVec.ofNat 4 v.toNat := rfl

theorem decodeTransfer_of_setup (h : v &&& 0x10 = 0x10) : decodeTransfer v = .setup (transferEp v) := by
  have h4 := (and_0x10_eq_iff v).1 h
  rw [decodeTransfer, if_pos h4]

theorem decodeTransfer_of_hs (h : v &&& 0x90 = 0x80) : decodeTransfer v = .hs := by
  obtain ⟨h4, h7⟩ := (and_0x90_eq_0x80_iff v).1 h
  simp only [decodeTransfer, h4, h7, if_true, Bool.false_eq_true, if_false]

theorem decodeTransfer_of_out (h : v &&& 0xB0 = 0x20) : decodeTransfer v = .out (transferEp v) := by
  obtain ⟨h4, h5, h7⟩ := (and_0xB0_eq_0x20_iff v).1 h
  simp only [decodeTransfer, h4, h5, h7, if_true, Bool.false_eq_true, if_false]

theorem decodeTransfer_of_in (h : v &&& 0xB0 = 0x00) : decodeTransfer v = .inn (transferEp v) := by
  obtain ⟨h4, h5, h7⟩ := (and_0xB0_eq_0x00_iff v).1 h
  simp only [decodeTransfer, h4, h5, h7, Bool.false_eq_true, if_false]

end

/-- Exactly one of the four masks matches: bit 4, then bit 7, then bit 5 decide which (R140). -/
theorem transferMasks_exactly_one (v : Byte) :
    (if v &&& 0x10 = 0x10 then 1 else 0) + (if v &&& 0x90 = 0x80 then 1 else 0) +
      (if v &&& 0xB0 = 0x20 then 1 else 0) + (if v &&& 0xB0 = 0x00 then 1 else 0) = 1 := by
  simp only [and_0x10_eq_iff, and_0x90_eq_0x80_iff, and_0xB0_eq_0x20_iff, and_0xB0_eq_0x00_iff]
  cases v.getLsbD 4 with
  | true => simp
  | false =>
    cases v.getLsbD 7 with
    | true => simp
    | false => cases v.getLsbD 5 <;> simp

/-! ### The statement -/

/-- Settles O2: the command byte by its direction bit and the mask 0xFA, the transfer-control byte mask by mask. -/
theorem everyCommandAndTransferByteDecodes : Obligations.EveryCommandAndTransferByteDecodes := by
  refine ⟨fun b => ⟨?_, fun c h => ?_⟩, fun v =>
    ⟨fun h => ?_, fun h => ?_, fun h => ?_, fun h => ?_, transferMasks_exactly_one v⟩⟩
  · simp only [decode_cmd8_cons, toInstr_decodeCommand, commandDir_eq_true_iff, commandIndex_eq_ofNat]
  · rw [decode_cmd8_cons, decode_cmd8_cons, decodeCommand_congr_of_and_0xFA h]
  · rw [decode_xfr8_cons, decodeTransfer_of_setup h, Transfer.toInstr, transferEp_eq_ofNat]
  · rw [decode_xfr8_cons, decodeTransfer_of_hs h, Transfer.toInstr]
  · rw [decode_xfr8_cons, decodeTransfer_of_out h, Transfer.toInstr, transferEp_eq_ofNat]
  · rw [decode_xfr8_cons, decodeTransfer_of_in h, Transfer.toInstr, transferEp_eq_ofNat]

end Sys2Proof

/-! Any declaration's bank accesses: the checks in their order (R171, R174, R178), and the bit positions that no field of
the register maps (R182). -/

namespace Sys2Proof.Machine

/-! ### The part of a value that a field takes -/

/-- A field takes from a written value the bits at its own positions alone (R151). -/
theorem fieldPart_congr {W v w : Nat} {f : Field}
    (h : ∀ k, f.offset ≤ k → k < f.offset + f.width → v.testBit k = w.testBit k) : fieldPart W f v = fieldPart W f w := by
  refine Nat.eq_of_testBit_eq fun i => ?_
  simp only [fieldPart, mask, trunc, Nat.and_two_pow_sub_one_eq_mod, Nat.testBit_mod_two_pow, Nat.testBit_shiftRight]
  by_cases hi : i < f.width
  · rw [h (f.offset + i) (by omega) (by omega)]
  · simp only [hi, decide_false, Bool.false_and]

/-- A value of the field's width contributes to a read at the field's own positions alone (R151). -/
theorem testBit_fieldImage_eq_false {f : Field} {x k : Nat} (hx : x < 2 ^ f.width)
    (hk : ¬ (f.offset ≤ k ∧ k < f.offset + f.width)) : (fieldImage f x).testBit k = false := by
  rw [fieldImage, Nat.testBit_shiftLeft]
  by_cases hlow : f.offset ≤ k
  · have hwide : 2 ^ f.width ≤ 2 ^ (k - f.offset) := Nat.pow_le_pow_right (by decide) (by omega)
    rw [Nat.testBit_lt_two_pow (Nat.lt_of_lt_of_le hx hwide), Bool.and_false]
  · simp only [ge_iff_le, hlow, decide_false, Bool.false_and]

/-! ### Written bits at reserved positions -/

section
variable {W v w : Nat}

theorem storeField_congr {f : Field} (h : fieldPart W f v = fieldPart W f w) (s : State) :
    storeField W v f s = storeField W w f s := by
  simp only [storeField, h]

theorem storeFields_congr {fs : List Field} (h : ∀ f ∈ fs, fieldPart W f v = fieldPart W f w) :
    ∀ s : State, storeFields W v fs s = storeFields W w fs s := by
  induction fs with
  | nil => exact fun _ => rfl
  | cons f fs ih =>
    intro s
    obtain ⟨hf, hfs⟩ := List.forall_mem_cons.1 h
    rw [storeFields, storeFields, storeField_congr hf, ih hfs]

/-- The written value reaches the register, and so its hooks, through the fields' parts alone (R176). -/
theorem writeRegister_congr {r : Register} {s : State}
    (h : ∀ f ∈ r.fields, fieldPart s.par.width f v = fieldPart s.par.width f w) :
    writeRegister r v s = writeRegister r w s := by
  simp only [writeRegister, storeFields_congr h]

end

/-! ### Reserved positions in a read -/

/-- What a field reads as fits its width: 0, the stored value, or a provider's result cut to the width (R173). -/
theorem readField_lt {s : State} (hs : s.bounded) (f : Field) : (readField f s).1 < 2 ^ f.width := by
  unfold readField
  split
  · exact Nat.two_pow_pos _
  · split
    · exact hs f.name
    · exact Nat.mod_lt _ (Nat.two_pow_pos _)

/-- The fields leave a position that none of them maps as it was, whatever their providers do to the state (R172). -/
theorem testBit_readFields_of_unmapped {k : Nat} {fs : List Field}
    (hk : ∀ f ∈ fs, ¬ (f.offset ≤ k ∧ k < f.offset + f.width)) :
    ∀ (acc : Nat) {s : State}, s.bounded → (readFields fs acc s).1.testBit k = acc.testBit k := by
  induction fs with
  | nil => exact fun _ _ _ => rfl
  | cons f fs ih =>
    intro acc s hs
    obtain ⟨hf, hfs⟩ := List.forall_mem_cons.1 hk
    rw [readFields, ih hfs _ ((inner_readField f s).bounded hs), Nat.testBit_or,
      testBit_fieldImage_eq_false (readField_lt hs f) hf, Bool.or_false]

/-! ### The statements -/

/-- Settles O27, check by check: each is reached when the ones before it pass. -/
theorem accessChecksInOrder : Obligations.AccessChecksInOrder := by
  intro s offset width value
  refine ⟨fun hb => ?guard, fun hb hw => ?width, fun hb hw hm => ?unmapped⟩
  case guard =>
    rw [exec_rbRead_eq, exec_rbWrite_eq, bankRead_busy _ _ hb, bankWrite_busy _ _ _ hb]
    exact ⟨rfl, rfl⟩
  case width =>
    rw [exec_rbRead_eq, exec_rbWrite_eq, bankRead_width _ hb hw, bankWrite_width _ _ hb hw]
    exact ⟨rfl, rfl⟩
  case unmapped =>
    subst hw
    have hnone : findRegister s.par.regmap offset = none := by
      rw [findRegister_eq_none, List.mem_map]
      rintro ⟨r, hr, hindex⟩
      exact hm r hr hindex
    rw [exec_rbRead_eq, exec_rbWrite_eq, bankRead_unmapped hb hnone, bankWrite_unmapped _ hb hnone]
    exact ⟨rfl, rfl⟩

/-- Settles O40: a write sees its value through the fields' parts alone, and a read gathers values within the fields'
widths, which every provider's body keeps. -/
theorem reservedBitsAreDropped : Obligations.ReservedBitsAreDropped := by
  intro s offset r hb hs hr
  refine ⟨fun v w hvw => ⟨writeRegister r w s, ?_, ?_⟩, _, _, exec_rbRead_eq offset s.par.width s, fun k hk => ?_⟩
  · rw [exec_rbWrite_eq, bankWrite_declared v hb hr, writeRegister_congr fun f hf => fieldPart_congr (hvw f hf)]
  · rw [exec_rbWrite_eq, bankWrite_declared w hb hr]
  · have hguarded : (s.setBusy true).bounded := hs
    rw [bankRead_declared hb hr, testBit_readFields_of_unmapped hk 0 hguarded, Nat.zero_testBit]

end Sys2Proof.Machine

/-! The interrupt aggregator's two operations as laws of `exec`, for every state, and the statement about them. -/

namespace Sys2Proof.Machine

/-- IA.RECOMPUTE drives the line once, to the formula of the fields (R211). -/
theorem exec_iaRecompute_eq (s : State) : exec .iaRecompute s = .next (s.driven 1) := by
  rw [← recompute_eq]
  rfl

/-- LINE.SET stores its operand and drives the line once (R212). -/
theorem exec_lineSet_eq (b : Bool) (s : State) :
    exec (.lineSet b) s = .next { s with irq := b, out := s.out ++ [.lineSet b] } := rfl

/-- Settles O19: the recompute by the formula written out (`recompute_eq`), the line set by its equation. -/
theorem recomputeDrivesTheFormula : Obligations.RecomputeDrivesTheFormula := by
  intro s b
  constructor
  · rw [exec_iaRecompute_eq, State.driven, List.replicate_one]
  · exact exec_lineSet_eq b s

end Sys2Proof.Machine

/-! The queue family: each FIFOQueue operation as a law of `exec`, the three outcomes of a range enqueue, then the
statements about enqueue (R253, R254), dequeue-one (R257), and range dequeue, whole dequeue, count and clear
(R258 to R261). -/

namespace Sys2Proof.Machine

section
variable (s : State) (q : QueueId)

/-! ### The operations of the queues -/

theorem exec_fqEnqN_eq (bs : List Byte) : exec (.fqEnqN q bs) s = .next (enqN q bs s) := rfl

/-- A single byte is a range of one (R253). -/
theorem exec_fqEnq1_eq_fqEnqN (b : Byte) : exec (.fqEnq1 q b) s = exec (.fqEnqN q [b]) s := rfl

theorem exec_fqDeq1_eq : exec (.fqDeq1 q) s = .next ((deq1 q s).2.result (.byte (deq1 q s).1)) := rfl

/-- The oldest `n` bytes, or all when there are fewer: `List.take` and `List.drop` say both (R258). -/
theorem exec_fqDeqN_eq (n : Nat) : exec (.fqDeqN q n) s =
    .next ((s.setBytes q ((s.queue q).bytes.drop n)).result (.bytes ((s.queue q).bytes.take n))) := rfl

theorem exec_fqDeqAll_eq : exec (.fqDeqAll q) s =
    .next ((s.setBytes q []).result (.bytes (s.queue q).bytes)) := rfl

theorem exec_fqCount_eq : exec (.fqCount q) s = .next (s.result (.count (s.queue q).bytes.length)) := rfl

theorem exec_fqClear_eq : exec (.fqClear q) s = .next (s.setBytes q []) := rfl

end

/-! ### The outcomes of a range enqueue -/

section
variable {s : State} {q : QueueId} {bs : List Byte}

theorem enqN_of_unbounded (hcap : (s.queue q).cap = none) :
    enqN q bs s = s.setBytes q ((s.queue q).bytes ++ bs) := by
  simp only [enqN, hcap]

variable {c : Nat}

theorem enqN_of_fits (hcap : (s.queue q).cap = some c) (hfits : ((s.queue q).bytes ++ bs).length ≤ c) :
    enqN q bs s = s.setBytes q ((s.queue q).bytes ++ bs) := by
  simp only [enqN, hcap, if_neg (Nat.not_lt.2 hfits)]

theorem enqN_of_overflows (hcap : (s.queue q).cap = some c) (hover : c < ((s.queue q).bytes ++ bs).length) :
    enqN q bs s = (s.setBytes q (newest c ((s.queue q).bytes ++ bs))).report
      (.fifoOverflow q (((s.queue q).bytes ++ bs).length - c)) := by
  simp only [enqN, hcap, if_pos hover]

end

/-! ### The statements -/

/-- Settles O14, by the capacity: none, not exceeded, or exceeded. -/
theorem enqueueDropsTheOldest : Obligations.EnqueueDropsTheOldest := by
  intro s q bs b
  refine ⟨fun hcap => ?unbounded, fun c hcap hfits => ?fits, fun c hcap hover => ?overflows,
    _, exec_fqEnqN_eq s q [b], exec_fqEnq1_eq_fqEnqN s q b⟩
  case unbounded => rw [exec_fqEnqN_eq, enqN_of_unbounded hcap]
  case fits => rw [exec_fqEnqN_eq, enqN_of_fits hcap hfits]
  case overflows => rw [exec_fqEnqN_eq, enqN_of_overflows hcap hover, newest]

/-- Settles O15, by whether the queue is empty. -/
theorem dequeueOneTakesTheOldest : Obligations.DequeueOneTakesTheOldest := by
  intro s q
  refine ⟨fun b rest hq => ?_, fun hq => ?_⟩
  · rw [exec_fqDeq1_eq, deq1_cons hq]
  · rw [exec_fqDeq1_eq, deq1_nil hq]
    rfl

/-- Settles O16, by the law of each operation. -/
theorem rangeDequeueCountAndClear : Obligations.RangeDequeueCountAndClear :=
  fun s q n => ⟨exec_fqDeqN_eq s q n, exec_fqDeqAll_eq s q, exec_fqCount_eq s q, exec_fqClear_eq s q⟩

end Sys2Proof.Machine

/-! The protocol machine's family: each of its operations, and select and deselect, as laws of `exec`; how the framing
parameter ends a byte (R286); then the statements about a data byte (R280), a dummy byte (R281), the frame boundaries
(R283, R284, R301, R303) and a command byte (R277 to R279). -/

namespace Sys2Proof.Machine

/-! ### The operations of the protocol machine and of the frame -/

/-- What a peripheral answers that P.DISPOSE has not ended (R422). -/
theorem live_of_not_ended {s : State} (he : s.ended = false) (answer : Answer) : live s answer = answer := by
  rw [live, he]
  rfl

section
variable (s : State)

theorem exec_frSelect_eq (he : s.ended = false) : exec .frSelect s = .next (frameEnd (s.setCs true)) :=
  live_of_not_ended he _

theorem exec_frDeselect_eq (he : s.ended = false) : exec .frDeselect s = .next (frameEnd (s.setCs false)) :=
  live_of_not_ended he _

theorem exec_psmFrameEnd_eq : exec .psmFrameEnd s = .next (frameEnd s) := rfl

theorem exec_psmReset_eq : exec .psmReset s = .next (psmReset s) := rfl

theorem exec_command_eq (c : Command) : exec c.toInstr s = .next (command c s) := by
  cases c <;> rfl

theorem exec_psmByte_eq (b : Byte) : exec (.psmByte b) s = answerByte (psmByte b s) := rfl

end

/-! ### A byte, by the state of the machine -/

section
variable {s : State} {t : BitVec 5}

theorem exec_psmByte_of_idle (h : s.psm.state = .idle) (b : Byte) :
    exec (.psmByte b) s = .next ((command (decodeCommand b) s).result (.byte 0)) := by
  simp only [exec_psmByte_eq, psmByte, h, answerByte]

theorem exec_psmData_of_writing (h : s.psm.state = .writing t) (b : Byte) :
    exec (.psmData b) s = .next ((afterByte (bankWrite t.toNat 8 b.toNat s)).result (.byte 0)) := by
  change execPsmData b s = _
  simp only [execPsmData, h, answerByte, dataByte]

/-- In state Writing every byte is a data byte (R276). -/
theorem exec_psmByte_of_writing (h : s.psm.state = .writing t) (b : Byte) :
    exec (.psmByte b) s = exec (.psmData b) s := by
  rw [exec_psmData_of_writing h]
  simp only [exec_psmByte_eq, psmByte, h, answerByte, dataByte]

theorem exec_psmDummy_of_reading (h : s.psm.state = .reading t) (b : Byte) :
    exec (.psmDummy b) s = .next ((afterByte (bankRead t.toNat 8 s).2).result
      (.byte (BitVec.ofNat 8 (bankRead t.toNat 8 s).1))) := by
  change execPsmDummy b s = _
  simp only [execPsmDummy, h, answerByte, dummyByte, readByte]

/-- In state Reading every byte is a dummy byte (R276). -/
theorem exec_psmByte_of_reading (h : s.psm.state = .reading t) (b : Byte) :
    exec (.psmByte b) s = exec (.psmDummy b) s := by
  rw [exec_psmDummy_of_reading h]
  simp only [exec_psmByte_eq, psmByte, h, answerByte, dummyByte, readByte]

end

/-! ### The end of a byte

The framing is a parameter, which no bank access changes: the framing before the access decides how the byte ends. -/

section
variable {s u : State} (hu : Grows s u)
include hu

theorem Grows.afterByte_untilFrameEnd (hf : s.par.framing = .untilFrameEnd) : afterByte u = u := by
  simp only [afterByte, hu.par, hf]

theorem Grows.afterByte_singleByte (hf : s.par.framing = .singleByte) : afterByte u = u.setPsm .idle := by
  simp only [afterByte, hu.par, hf]

end

/-! ### The command byte -/

/-- A decoded command byte's effect, in terms of the byte's direction mask and its five index bits (R133 to R138). -/
theorem command_decodeCommand (b : Byte) (s : State) : command (decodeCommand b) s = { s with
    psm := { state := if b &&& 0x02 = 0x02 then .writing (BitVec.ofNat 5 (b.toNat / 8))
               else .reading (BitVec.ofNat 5 (b.toNat / 8))
             last := some (BitVec.ofNat 5 (b.toNat / 8)) } } := by
  have hindex : commandIndex b = BitVec.ofNat 5 (b.toNat / 8) := by
    rw [commandIndex_eq_ofNat, Nat.shiftRight_eq_div_pow]
  rw [decodeCommand, hindex]
  by_cases hdir : b &&& 0x02 = 0x02
  · rw [if_pos ((commandDir_eq_true_iff b).2 hdir), if_pos hdir, command]
  · rw [if_neg (mt (commandDir_eq_true_iff b).1 hdir), if_neg hdir, command]

/-! ### The statements -/

/-- Settles O11: the state `u` is the one the register write leaves, and the framing decides what follows it. -/
theorem dataByteWritesTheTarget : Obligations.DataByteWritesTheTarget := by
  intro s t b h
  have hwrite := grows_bankWrite t.toNat 8 b.toNat s
  refine ⟨_, exec_rbWrite_eq t.toNat 8 b.toNat s, fun hf => ?untilFrameEnd, fun hf => ?singleByte⟩
  all_goals rw [exec_psmByte_of_writing h, and_self, exec_psmData_of_writing h]
  case untilFrameEnd => rw [hwrite.afterByte_untilFrameEnd hf]
  case singleByte => rw [hwrite.afterByte_singleByte hf, State.setPsm]

/-- Settles O12: the state `u` and the value are those of the register read, in which the byte takes no part. -/
theorem dummyByteReadsTheTarget : Obligations.DummyByteReadsTheTarget := by
  intro s t b h
  have hread := grows_bankRead t.toNat 8 s
  refine ⟨_, _, exec_rbRead_eq t.toNat 8 s, fun hf => ?untilFrameEnd, fun hf => ?singleByte⟩
  all_goals rw [exec_psmByte_of_reading h, and_self, exec_psmDummy_of_reading h]
  case untilFrameEnd => rw [hread.afterByte_untilFrameEnd hf]
  case singleByte => rw [hread.afterByte_singleByte hf, State.setPsm]

/-- Settles O8, operation by operation. -/
theorem frameBoundariesReturnToIdle : Obligations.FrameBoundariesReturnToIdle :=
  fun s => ⟨fun he => ⟨exec_frSelect_eq s he, exec_frDeselect_eq s he⟩, exec_psmFrameEnd_eq s, exec_psmReset_eq s⟩

/-- Settles O10: the two commands by themselves, then the byte that decodes to one of them. -/
theorem commandByteEntersItsState : Obligations.CommandByteEntersItsState := by
  refine ⟨fun s t => ⟨exec_command_eq s (.wr t), exec_command_eq s (.rd t)⟩, fun s b h => ?_⟩
  rw [exec_psmByte_of_idle h, command_decodeCommand]
  rfl

end Sys2Proof.Machine

/-! The byte-stream framer's family: a transferred byte, by the select level, as laws of `exec`; then the statement about a
byte in a frame (R302) and outside one (R304). -/

namespace Sys2Proof.Machine

/-! ### A transferred byte, by the select level -/

/-- The protocol machine refuses no byte. -/
theorem exec_psmByte_eq_next (s : State) (b : Byte) :
    exec (.psmByte b) s = .next ((psmByte b s).2.result (.byte (psmByte b s).1)) := by
  rw [exec_psmByte_eq, answerByte]

section
variable {s : State} (he : s.ended = false)
include he

/-- In a frame a transferred byte is a byte of the protocol machine (R302). -/
theorem exec_frXfer_of_selected (hcs : s.cs = true) (b : Byte) : exec (.frXfer b) s = exec (.psmByte b) s := by
  change execFrXfer b s = _
  rw [execFrXfer, live_of_not_ended he, if_pos hcs, exec_psmByte_eq]

/-- Outside a frame a transferred byte is unexpected (R304). -/
theorem exec_frXfer_of_not_selected (hcs : s.cs = false) (b : Byte) :
    exec (.frXfer b) s = answerByte (unexpectedByte b s) := by
  change execFrXfer b s = _
  rw [execFrXfer, live_of_not_ended he, if_neg (Bool.eq_false_iff.1 hcs)]

end

/-! ### The statement -/

/-- Settles O9, by the select level: in a frame the byte is the protocol machine's, outside it is reported. -/
theorem byteInsideAndOutsideAFrame : Obligations.ByteInsideAndOutsideAFrame := by
  intro s b he
  refine ⟨fun hcs => ?selected, fun hcs => ?notSelected⟩
  case selected =>
    rw [exec_frXfer_of_selected he hcs]
    exact ⟨_, exec_psmByte_eq_next s b, exec_psmByte_eq_next s b⟩
  case notSelected =>
    rw [exec_frXfer_of_not_selected he hcs]
    rfl

end Sys2Proof.Machine

/-! The setup packet's layout: a little-endian field as arithmetic (R155), and decoding by the number of bytes available,
with the fields read off by position (R331). -/

namespace Sys2Proof

/-- The low byte fills the eight bits that the shifted high byte leaves 0, so the or is a sum (R155). -/
theorem littleEndian_eq_ofNat (lo hi : Byte) :
    littleEndian lo hi = BitVec.ofNat 16 (lo.toNat + 256 * hi.toNat) := by
  have hlo : lo.toNat < 2 ^ 8 := lo.isLt
  have hhi : hi.toNat < 2 ^ 8 := hi.isLt
  have hsum : hi.toNat <<< 8 ||| lo.toNat = 256 * hi.toNat + lo.toNat := by
    rw [← Nat.shiftLeft_add_eq_or_of_lt hlo, Nat.shiftLeft_eq, Nat.mul_comm]
  have hfits : hi.toNat <<< 8 < 2 ^ 16 := by
    rw [Nat.shiftLeft_eq]
    omega
  apply BitVec.eq_of_toNat_eq
  rw [littleEndian, BitVec.toNat_or, BitVec.toNat_shiftLeft, BitVec.toNat_setWidth, BitVec.toNat_setWidth,
    BitVec.toNat_ofNat, Nat.mod_eq_of_lt (a := lo.toNat) (by omega), Nat.mod_eq_of_lt (a := hi.toNat) (by omega),
    Nat.mod_eq_of_lt hfits, Nat.or_comm, hsum]
  omega

section
variable {p : List Byte}

theorem decodeSetup_of_short (h : p.length < 8) : decodeSetup p = none := by
  unfold decodeSetup
  split
  case h_1 =>
    simp only [List.length_cons] at h
    omega
  case h_2 => rfl

/-- Bytes beyond the eighth take no part (R331). -/
theorem decodeSetup_of_whole (h : 8 ≤ p.length) : decodeSetup p = some
    { bmRequestType := p.getD 0 0
      bRequest := p.getD 1 0
      wValue := BitVec.ofNat 16 ((p.getD 2 0).toNat + 256 * (p.getD 3 0).toNat)
      wIndex := BitVec.ofNat 16 ((p.getD 4 0).toNat + 256 * (p.getD 5 0).toNat)
      wLength := BitVec.ofNat 16 ((p.getD 6 0).toNat + 256 * (p.getD 7 0).toNat) } := by
  match p, h with
  | _ :: _ :: _ :: _ :: _ :: _ :: _ :: _ :: _, _ =>
    simp only [decodeSetup, littleEndian_eq_ofNat]
    rfl

end

end Sys2Proof

/-! The transfer family: each transfer operation as a law of `exec`, first the pieces that it is made of, in the order of
the model; then the statements about the setup packet (R331), the trigger (R325, R327), the kinds of request (R328, R329,
R332, R333), the transactions (R330, R334, R336) and the frame tick (R231, R324). -/

namespace Sys2Proof.Machine

/-! ### The setup transaction -/

section
variable {s : State} (d : Device)

theorem setupTransaction_of_short (h : s.sud.bytes.length < 8) : setupTransaction d s =
    { s with sud := { s.sud with bytes := [] }, log := s.log ++ [.setupDecode s.sud.bytes.length] } := by
  have hnone : decodeSetup (deqAll .sud s).1 = none := decodeSetup_of_short h
  simp only [setupTransaction, hnone]
  rfl

theorem setupTransaction_of_decoded {p : Packet} (h : decodeSetup s.sud.bytes = some p) : setupTransaction d s =
    { s with
      sud := { s.sud with bytes := [] }
      nextId := s.nextId + 1
      pend := s.pend ++ [⟨s.nextId, .setupResp⟩]
      out := s.out ++ [.handleSetup d p s.nextId] } := by
  have hsome : decodeSetup (deqAll .sud s).1 = some p := h
  simp only [setupTransaction, hsome]
  rfl

end

/-! ### The bulk transactions -/

section
variable (s : State)

/-- Only a declared count that is not the count queued is reported (R334). -/
theorem reportMismatch_eq (n k : Nat) : reportMismatch n k s =
    { s with log := s.log ++ if n = k then [] else [.byteCountMismatch n k] } := by
  by_cases h : n = k
  · rw [reportMismatch, if_neg (not_not.2 h), if_pos h, List.append_nil]
  · rw [reportMismatch, if_pos h, if_neg h, State.report]

theorem deliver_eq (e : Endpoint) (n : Nat) : deliver e n s =
    { s with
      snd := { s.snd with bytes := s.snd.bytes.drop n }
      out := s.out ++ [.writeData e (s.snd.bytes.take n)] } := rfl

theorem bulkOutFlags_eq : bulkOutFlags s = s.withVal
    { s.bank.val with
      sndBavIrq := 1
      hxfrdnIrq := if s.par.bulkOutSetsDone then 1 else s.bank.val.hxfrdnIrq } := by
  unfold bulkOutFlags
  split <;> rfl

/-- A bulk OUT (R334). -/
theorem bulkOut_eq (e : Endpoint) : bulkOut e s =
    (State.withVal { s with
        snd := { s.snd with bytes := s.snd.bytes.drop s.bank.val.sndBc }
        log := s.log ++ (if s.bank.val.sndBc = s.snd.bytes.length then []
          else [.byteCountMismatch s.bank.val.sndBc s.snd.bytes.length])
        out := s.out ++ [.writeData e (s.snd.bytes.take s.bank.val.sndBc)] }
      { s.bank.val with
        sndBavIrq := 1
        hxfrdnIrq := if s.par.bulkOutSetsDone then 1 else s.bank.val.hxfrdnIrq }).driven 1 := by
  rw [bulkOut, recompute_eq, bulkOutFlags_eq, deliver_eq, reportMismatch_eq]
  rfl

theorem bulkIn_none : bulkIn none s = transferDone s := rfl

theorem bulkIn_some (e : Endpoint) : bulkIn (some e) s =
    { s with
      nextId := s.nextId + 1
      pend := s.pend ++ [⟨s.nextId, .dataReady⟩]
      out := s.out ++ [.subscribeDataReady e s.nextId] } := rfl

end

/-! ### A request, by its endpoint -/

section
variable {d : Device} {ep : BitVec 4} {i : Nat} {s : State}

theorem deviceEndpoint_of_mem (h : i ∈ d.endpoints) : deviceEndpoint d i = some ⟨d.ident, i⟩ := if_pos h

theorem deviceEndpoint_of_not_mem (h : i ∉ d.endpoints) : deviceEndpoint d i = none := if_neg h

theorem setupRequest_zero : setupRequest d 0 s = setupTransaction d s := if_neg (not_not.2 rfl)

theorem setupRequest_of_ne_zero (h : ep ≠ 0) : setupRequest d ep s = s.report (.setupBadEp ep.toNat) := if_pos h

theorem outRequest_zero : outRequest d 0 s = transferDone s := if_pos rfl

theorem outRequest_of_not_mem (h : ep ≠ 0) (hep : ep.toNat ∉ d.endpoints) :
    outRequest d ep s = transferDone (s.report (.noEndpoint ep.toNat)) := by
  rw [outRequest, if_neg h, deviceEndpoint_of_not_mem hep]

theorem outRequest_of_mem (h : ep ≠ 0) (hep : ep.toNat ∈ d.endpoints) :
    outRequest d ep s = bulkOut ⟨d.ident, ep.toNat⟩ s := by
  rw [outRequest, if_neg h, deviceEndpoint_of_mem hep]

theorem inRequest_zero : inRequest d 0 s = transferDone s := by
  rw [inRequest, if_pos rfl, bulkIn_none]

theorem inRequest_of_not_mem (h : ep ≠ 0) (hep : ep.toNat ∉ d.endpoints) :
    inRequest d ep s = transferDone (s.report (.noEndpoint ep.toNat)) := by
  rw [inRequest, if_neg h, deviceEndpoint_of_not_mem hep, bulkIn_none]

theorem inRequest_of_mem (h : ep ≠ 0) (hep : ep.toNat ∈ d.endpoints) :
    inRequest d ep s = bulkIn (some ⟨d.ident, ep.toNat⟩) s := by
  rw [inRequest, if_neg h, deviceEndpoint_of_mem hep]

end

/-! ### A request, by the addressed device -/

/-- The completion without a device: one report, the done flag, one recompute (R327). -/
theorem absentDevice_eq (s : State) : absentDevice s =
    (State.withVal { s with log := s.log ++ [.noDevice s.bank.val.perAddr] }
      { s.bank.val with hxfrdnIrq := 1 }).driven 1 := transferDone_eq _

section
variable {s : State} (onDevice : Device → State → State)

theorem request_of_absent (h : s.device s.bank.val.perAddr = none) : request onDevice s = absentDevice s := by
  have haddressed : addressedDevice s = none := h
  rw [request, haddressed]

theorem request_of_present {d : Device} (h : s.device s.bank.val.perAddr = some d) :
    request onDevice s = onDevice d s := by
  have haddressed : addressedDevice s = some d := h
  rw [request, haddressed]

end

/-! ### The operations of the transfer logic -/

section
variable (s : State)

theorem exec_pFrameTick_eq : exec .pFrameTick s = .next (frameTick s) := rfl

theorem exec_sudDecode_eq (p : List Byte) :
    exec (.sudDecode p) s = .next (s.result (.packet (decodeSetup p))) := rfl

theorem exec_pSetup_eq (d : Device) : exec (.pSetup d) s = .next (setupTransaction d s) := rfl

theorem exec_pBulkOut_eq (e : Endpoint) : exec (.pBulkOut e) s = .next (bulkOut e s) := rfl

theorem exec_pBulkIn_eq (eo : Option Endpoint) : exec (.pBulkIn eo) s = .next (bulkIn eo s) := rfl

/-- A trigger is the operation that its byte decodes to (R325). -/
theorem exec_pXfer_eq_exec_toInstr (v : Byte) : exec (.pXfer v) s = exec (decodeTransfer v).toInstr s := by
  change Host.Outcome.next (transferTrigger v s) = _
  unfold transferTrigger
  cases decodeTransfer v <;> rfl

/-- A request is neither refused nor does it fault. -/
theorem exec_transfer_eq_next (k : Transfer) : ∃ t : State, exec k.toInstr s = .next t := by
  cases k <;> exact ⟨_, rfl⟩

end

theorem exec_vcTick_of_enabled {s : State} (hr : s.clk.running = true) (hd : s.clk.disposed = false) :
    exec .vcTick s = .next (clockTick s) := by
  change execVcTick s = _
  rw [execVcTick, if_pos ((clockEnabled_iff s).2 ⟨hr, hd⟩)]

/-- Without the addressed device a request of any kind completes alike: the kind is not looked at (R326, R327). -/
theorem exec_transfer_of_absent {s : State} (h : s.device s.bank.val.perAddr = none) (k : Transfer) :
    exec k.toInstr s = .next (absentDevice s) := by
  cases k <;> exact congrArg Host.Outcome.next (request_of_absent _ h)

section
variable {s : State} {d : Device} (h : s.device s.bank.val.perAddr = some d)
include h

theorem exec_xferSetup_of_present (ep : BitVec 4) : exec (.xferSetup ep) s = .next (setupRequest d ep s) :=
  congrArg Host.Outcome.next (request_of_present _ h)

theorem exec_xferHs_of_present : exec .xferHs s = .next (transferDone s) :=
  congrArg Host.Outcome.next (request_of_present _ h)

theorem exec_xferOut_of_present (ep : BitVec 4) : exec (.xferOut ep) s = .next (outRequest d ep s) :=
  congrArg Host.Outcome.next (request_of_present _ h)

theorem exec_xferIn_of_present (ep : BitVec 4) : exec (.xferIn ep) s = .next (inRequest d ep s) :=
  congrArg Host.Outcome.next (request_of_present _ h)

end

/-! ### The statements -/

/-- Settles O3, by whether eight bytes are available. -/
theorem setupPacketAssembly : Obligations.SetupPacketAssembly := by
  intro p s
  rw [exec_sudDecode_eq]
  split
  case isTrue hshort =>
    rw [decodeSetup_of_short hshort]
    rfl
  case isFalse hwhole =>
    rw [decodeSetup_of_whole (Nat.not_lt.1 hwhole)]
    rfl

/-- Settles O45: a trigger is the operation that its byte decodes to, and without a device that operation only
completes. -/
theorem triggerLooksUpTheDeviceFirst : Obligations.TriggerLooksUpTheDeviceFirst := by
  intro s v d i hi
  rw [exec_pXfer_eq_exec_toInstr]
  refine ⟨fun habsent => ?absent, fun _ => ?present⟩
  case absent => rw [exec_transfer_of_absent habsent, absentDevice_eq]
  case present =>
    rw [decode_xfr8_cons] at hi
    obtain ⟨⟩ := hi
    obtain ⟨t, ht⟩ := exec_transfer_eq_next s (decodeTransfer v)
    exact ⟨t, ht, ht⟩

/-- Settles O48, by the endpoint index: 0, one the device lacks, one it has. -/
theorem dataRequestsResolveTheEndpoint : Obligations.DataRequestsResolveTheEndpoint := by
  intro s d ep h
  simp only [exec_xferOut_of_present h, exec_xferIn_of_present h]
  refine ⟨?zero, fun hne hep => ?unresolved, fun hne hep => ?resolved⟩
  case zero =>
    rw [outRequest_zero, inRequest_zero, transferDone_eq]
    exact ⟨rfl, rfl⟩
  case unresolved =>
    rw [outRequest_of_not_mem hne hep, inRequest_of_not_mem hne hep, transferDone_eq]
    exact ⟨rfl, rfl⟩
  case resolved =>
    rw [outRequest_of_mem hne hep, inRequest_of_mem hne hep]
    exact ⟨⟨_, exec_pBulkOut_eq s _, rfl⟩, _, exec_pBulkIn_eq s _, rfl⟩

/-- Settles O49, by whether the setup FIFO holds eight bytes. -/
theorem setupTransactionDrainsAndHandsOver : Obligations.SetupTransactionDrainsAndHandsOver := by
  intro s d
  rw [exec_pSetup_eq]
  refine ⟨fun hshort => ?short, fun hwhole => ⟨_, decodeSetup_of_whole hwhole, ?whole⟩⟩
  case short => rw [setupTransaction_of_short d hshort]
  case whole => rw [setupTransaction_of_decoded d (decodeSetup_of_whole hwhole)]

/-- Settles O50, by the law of the bulk OUT. -/
theorem bulkOutDeliversTheDeclaredCount : Obligations.BulkOutDeliversTheDeclaredCount := by
  intro s e
  rw [exec_pBulkOut_eq, bulkOut_eq]

/-- Settles O24: the callback of an enabled clock is the frame tick. -/
theorem tickSetsTheFrameFlag : Obligations.TickSetsTheFrameFlag := by
  refine fun s => ⟨?_, fun hr hd => ?_⟩
  · rw [exec_pFrameTick_eq, frameTick_eq]
  · rw [exec_vcTick_of_enabled hr hd, clockTick_eq]

/-- Settles O47, by the kind of request and the endpoint of a setup. -/
theorem setupAndHandshakeRequests : Obligations.SetupAndHandshakeRequests := by
  intro s d ep h
  refine ⟨fun hne => ?badEndpoint, ⟨_, exec_pSetup_eq s d, ?endpointZero⟩, ?handshake⟩
  case badEndpoint => rw [exec_xferSetup_of_present h, setupRequest_of_ne_zero hne, State.report]
  case endpointZero => rw [exec_xferSetup_of_present h, setupRequest_zero]
  case handshake => rw [exec_xferHs_of_present h, transferDone_eq]

/-- Settles O51, by whether there is an endpoint. -/
theorem bulkInSubscribesOrCompletes : Obligations.BulkInSubscribesOrCompletes := by
  intro s e
  rw [exec_pBulkIn_eq, exec_pBulkIn_eq, bulkIn_none, transferDone_eq, bulkIn_some]
  exact ⟨rfl, rfl⟩

end Sys2Proof.Machine

/-! The reset family: P.RESET as a law of `exec`, its next state for any declaration, and the reset values of the exemplar's
map; then the statement about the state that P.RESET leaves (R421). -/

namespace Sys2Proof.Machine

/-- P.RESET resets a peripheral that P.DISPOSE has not ended (R421, R422). -/
theorem exec_pReset_eq {s : State} (he : s.ended = false) : exec .pReset s = .next (peripheralReset s) :=
  live_of_not_ended he _

/-- The lines of R421 taken together, for any declaration: each writes a part of the state of its own, and the line, driven
once, comes last. -/
theorem peripheralReset_eq (s : State) : peripheralReset s =
    { s with
      bank := { val := resetFields s.par.regmap s.bank.val, busy := false }
      psm := { state := .idle, last := none }
      sud := { s.sud with bytes := [] }
      snd := { s.snd with bytes := [] }
      rcv := { s.rcv with bytes := [] }
      clk := { s.clk with running := false, elapsed := 0 }
      irq := false
      pend := []
      out := s.out ++ [.lineSet false] } := rfl

/-- The exemplar's map lists each of the 22 named fields, in a register whose reset value is 0 (R54), and no field of a
generic bank. -/
theorem resetFields_exemplarMap (b : FieldVals) : resetFields exemplarMap b = { other := b.other } := rfl

/-- Settles O54: the next state for any declaration, at the reset values of the exemplar's map. -/
theorem peripheralResetLeavesTheResetState : Obligations.PeripheralResetLeavesTheResetState := by
  intro s hs he
  obtain ⟨-, hmap⟩ := hs
  rw [exec_pReset_eq he, peripheralReset_eq, hmap, resetFields_exemplarMap]

end Sys2Proof.Machine

/-! The encoding family, the other way round: what the decoder reads from the encoder's bytes (R130 to R142), and the setup
packet's eight bytes in both directions (R141). -/

namespace Sys2Proof

/-! ### The command byte -/

section
variable (idx : BitVec 5) (dir : Bool)

/-- The target stands in bits 7 to 3 of the command byte (R135, R137). -/
theorem commandIndex_encodeCommand : commandIndex (encodeCommand idx dir) = idx := by
  refine BitVec.eq_of_getLsbD_eq fun i hi => ?_
  have hdir : (if dir then 0x02 else 0x00 : Byte).getLsbD (3 + i) = false := by
    cases dir
    · exact BitVec.getLsbD_zero
    · interval_cases i <;> rfl
  rw [commandIndex, encodeCommand, BitVec.getLsbD_extractLsb', BitVec.getLsbD_or, hdir]
  simp [hi, show 3 + i < 8 by omega]

/-- The direction is bit 1 of the command byte (R134, R137). -/
theorem commandDir_encodeCommand : commandDir (encodeCommand idx dir) = dir := by
  cases dir <;> simp [commandDir, encodeCommand]

theorem decodeCommand_encodeCommand :
    decodeCommand (encodeCommand idx dir) = if dir then .wr idx else .rd idx := by
  rw [decodeCommand, commandIndex_encodeCommand, commandDir_encodeCommand]

end

/-! ### The transfer-control byte -/

/-- An endpoint stands in the low four bits, which no mode bit of R139 touches. -/
theorem transferEp_or_zeroExtend {m : Byte} (hm : transferEp m = 0) (ep : BitVec 4) :
    transferEp (m ||| ep.zeroExtend 8) = ep := by
  have hlow : (ep.zeroExtend 8).extractLsb' 0 4 = ep := by
    refine BitVec.eq_of_getLsbD_eq fun i hi => ?_
    simp [hi, show i < 8 by omega]
  rw [transferEp] at hm
  rw [transferEp, BitVec.extractLsb'_or, hm, hlow]
  exact BitVec.zero_or

/-- The mode bits stand above the endpoint. -/
theorem getLsbD_or_zeroExtend (m : Byte) (ep : BitVec 4) {k : Nat} (hk : 4 ≤ k) :
    (m ||| ep.zeroExtend 8).getLsbD k = m.getLsbD k := by
  simp [BitVec.getLsbD_of_ge ep k hk]

theorem decodeTransfer_encodeTransfer (k : Transfer) : decodeTransfer (encodeTransfer k) = k := by
  cases k with
  | hs => decide
  | setup ep =>
    rw [encodeTransfer, decodeTransfer, getLsbD_or_zeroExtend _ _ (by decide), transferEp_or_zeroExtend (by decide)]
    rfl
  | out ep =>
    simp only [encodeTransfer, decodeTransfer, getLsbD_or_zeroExtend _ ep (show 4 ≤ 4 by decide),
      getLsbD_or_zeroExtend _ ep (show 4 ≤ 5 by decide), getLsbD_or_zeroExtend _ ep (show 4 ≤ 7 by decide),
      transferEp_or_zeroExtend (m := 0x20) (by decide)]
    rfl
  | inn ep =>
    have hzero : encodeTransfer (.inn ep) = 0 ||| ep.zeroExtend 8 := (BitVec.zero_or).symm
    simp only [hzero, decodeTransfer, getLsbD_or_zeroExtend _ ep (show 4 ≤ 4 by decide),
      getLsbD_or_zeroExtend _ ep (show 4 ≤ 5 by decide), getLsbD_or_zeroExtend _ ep (show 4 ≤ 7 by decide),
      transferEp_or_zeroExtend (m := 0) (by decide)]
    rfl

/-! ### The setup packet -/

theorem littleEndian_extractLsb' (h : Half) : littleEndian (h.extractLsb' 0 8) (h.extractLsb' 8 8) = h := by
  refine BitVec.eq_of_getLsbD_eq fun i hi => ?_
  by_cases hlow : i < 8
  · simp [littleEndian, hlow, hi]
  · simp [littleEndian, hlow, hi, show i - 8 < 8 by omega, show 8 + (i - 8) = i by omega]

theorem halfBytes_littleEndian (lo hi : Byte) : halfBytes (littleEndian lo hi) = [lo, hi] := by
  have hlow : (littleEndian lo hi).extractLsb' 0 8 = lo := by
    refine BitVec.eq_of_getLsbD_eq fun i hi => ?_
    simp [littleEndian, hi, show i < 16 by omega]
  have hhigh : (littleEndian lo hi).extractLsb' 8 8 = hi := by
    refine BitVec.eq_of_getLsbD_eq fun i hi => ?_
    simp [littleEndian, hi, show 8 + i < 16 by omega]
  rw [halfBytes, hlow, hhigh]

theorem encodeSetup_length (p : Packet) : (encodeSetup p).length = 8 := rfl

/-- The packet's bytes decode to the packet, whatever stands after them (R331). -/
theorem decodeSetup_encodeSetup (p : Packet) : decodeSetup (encodeSetup p) = some p := by
  change some (Packet.mk _ _ (littleEndian _ _) (littleEndian _ _) (littleEndian _ _)) = some p
  rw [littleEndian_extractLsb', littleEndian_extractLsb', littleEndian_extractLsb']

theorem exists_encodeSetup_eq : ∀ {bs : List Byte}, bs.length = 8 → ∃ p, decodeSetup bs = some p ∧ encodeSetup p = bs
  | [_, _, _, _, _, _, _, _], _ => by
    refine ⟨_, rfl, ?_⟩
    simp only [encodeSetup, halfBytes_littleEndian, List.cons_append, List.nil_append]

/-- Eight bytes of a setup packet are read, and the bytes after them are left (R141). -/
theorem decode_sud64_append {p : List Byte} (hp : p.length = Config.setupLen) (rest : List Byte) :
    decode .sud64 (p ++ rest) = .ok (.sudDecode p, rest) := by
  have hlong : ¬ (p ++ rest).length < Config.setupLen := by rw [List.length_append]; omega
  rw [decode, if_neg hlong, ← hp, List.take_left, List.drop_left]

/-! ### The statements -/

/-- Settles O1, by the format of the operation; an operation without a bit pattern has no bytes. -/
theorem decodeOfEncodedIsTheInstruction : Obligations.DecodeOfEncodedIsTheInstruction := by
  intro i bs rest h
  cases i with
  | cmdRd idx | cmdWr idx =>
    obtain rfl := Option.some.inj h
    simp only [Instr.format, List.singleton_append, decode_cmd8_cons, decodeCommand_encodeCommand]
    rfl
  | xferSetup ep | xferHs | xferOut ep | xferIn ep =>
    obtain rfl := Option.some.inj h
    simp only [Instr.format, List.singleton_append, decode_xfr8_cons, decodeTransfer_encodeTransfer]
    rfl
  | sudDecode p =>
    obtain ⟨hp, rfl⟩ : p.length = Config.setupLen ∧ p = bs := by simpa [encode] using h
    exact decode_sud64_append hp rest
  | _ => exact nomatch h

/-- Settles O4, direction by direction. -/
theorem setupPacketRoundTrip : Obligations.SetupPacketRoundTrip :=
  ⟨fun p => ⟨encodeSetup_length p, decodeSetup_encodeSetup p⟩, fun _ h => exists_encodeSetup_eq h⟩

/-- Settles O5: each word is a closed term of the decoder. -/
theorem wordsOfTheEncodingTables : Obligations.WordsOfTheEncodingTables := by
  unfold Obligations.WordsOfTheEncodingTables
  decide

end Sys2Proof

/-! The steps of the schedule: the next agent step (R13, R107), and the first byte of a frame (R276, R302). -/

namespace Sys2Proof.Machine

theorem step_of_inbox_cons {s : State} {a : Stimulus} {rest : List Stimulus} (h : s.inbox = a :: rest) :
    step s = exec a.toInstr { s with inbox := rest } := by
  simp only [step, fetch, h]

theorem step_of_inbox_nil {s : State} (h : s.inbox = []) : step s = .next s := by
  simp only [step, fetch, h]

/-- Settles O6, by whether an agent step is scheduled. -/
theorem stepTakesTheNextAgentStep : Obligations.StepTakesTheNextAgentStep :=
  ⟨fun _ _ _ h => step_of_inbox_cons h, fun _ h => step_of_inbox_nil h⟩

/-- Settles O7: in state Idle the byte is decoded as a command, and the command is an operation of its own. -/
theorem firstByteOfAFrameRunsItsInstruction : Obligations.FirstByteOfAFrameRunsItsInstruction := by
  intro s b rest i hin he hcs hidle hdec
  rw [decode_cmd8_cons] at hdec
  obtain ⟨⟩ := hdec
  refine ⟨_, exec_command_eq _ (decodeCommand b), ?_⟩
  rw [step_of_inbox_cons hin]
  change exec (.frXfer b) _ = _
  rw [exec_frXfer_of_selected (s := { s with inbox := rest }) he hcs,
    exec_psmByte_of_idle (s := { s with inbox := rest }) hidle]

end Sys2Proof.Machine

/-! The clock family: its commands, the tick and the advance as laws of `exec`, and the statements about the commands (R226,
R228 to R230) and about one part of an advance (R233). -/

namespace Sys2Proof.Machine

/-! ### The operations of the clock -/

section
variable (s : State)

theorem clockStart_eq : clockStart s = if s.clk.disposed = true ∨ s.clk.running = true then s
    else { s with clk := { s.clk with running := true, elapsed := 0 } } := by
  simp only [clockStart, Bool.or_eq_true]

theorem exec_vcStart_eq : exec .vcStart s = .next (clockStart s) := rfl

theorem exec_vcStop_eq : exec .vcStop s = .next (clockStop s) := rfl

theorem exec_vcDispose_eq : exec .vcDispose s = .next (clockDispose s) := rfl

end

section
variable {s : State} (cb : Callback) {r : Int}

theorem exec_vcObtain_of_pos (h : 0 < r) : exec (.vcObtain cb r) s =
    .next (State.result { s with clk := newClock cb r.toNat } (.clock (newClock cb r.toNat))) :=
  if_neg (Int.not_le.2 h)

theorem exec_vcObtain_of_not_pos (h : r ≤ 0) : exec (.vcObtain cb r) s = .refused (.badRate r) := if_pos h

end

section
variable {s : State} {dt : Rat}

theorem clockEnabled_eq_false (h : s.clk.running = false ∨ s.clk.disposed = true) : clockEnabled s = false := by
  rcases h with h | h <;> simp [clockEnabled, h]

theorem exec_vcTick_of_not_enabled (h : s.clk.running = false ∨ s.clk.disposed = true) : exec .vcTick s = .next s := by
  change execVcTick s = _
  rw [execVcTick, clockEnabled_eq_false h]
  rfl

theorem exec_vcAdvance_eq (h : 0 ≤ dt) : exec (.vcAdvance dt) s = .next (advance dt s) := if_neg (not_lt.2 h)

theorem exec_vcAdvance_of_neg (h : dt < 0) : exec (.vcAdvance dt) s = .refused (.negativeTime dt) := if_pos h

theorem advance_of_not_enabled (h : s.clk.running = false ∨ s.clk.disposed = true) : advance dt s = s := by
  rw [advance, clockEnabled_eq_false h]
  rfl

variable (hr : s.clk.running = true) (hd : s.clk.disposed = false)
include hr hd

theorem advance_of_before_tick (h : s.clk.elapsed + dt < 1 / (s.clk.rate : Rat)) :
    advance dt s = { s with clk := { s.clk with elapsed := s.clk.elapsed + dt } } := by
  rw [advance, (clockEnabled_iff s).2 ⟨hr, hd⟩]
  exact if_pos h

theorem advance_of_tick (h : 1 / (s.clk.rate : Rat) ≤ s.clk.elapsed + dt) : advance dt s =
    { clockTick s with inbox := .vcAdvance (dt - (1 / (s.clk.rate : Rat) - s.clk.elapsed)) :: s.inbox } := by
  have hinbox : (clockTick s).inbox = s.inbox := (within_clockTick s).inbox
  rw [advance, (clockEnabled_iff s).2 ⟨hr, hd⟩, ← hinbox]
  exact if_neg (not_lt.2 h)

end

/-! ### The statements -/

/-- Settles O23, by the law of each operation. -/
theorem clockObtainStartStopDispose : Obligations.ClockObtainStartStopDispose := by
  intro s cb n r
  refine ⟨?start, exec_vcStop_eq s, exec_vcDispose_eq s, fun hn => ?obtained, exec_vcObtain_of_not_pos cb⟩
  case start => rw [exec_vcStart_eq, clockStart_eq]
  case obtained =>
    rw [exec_vcObtain_of_pos cb (Int.natCast_pos.2 hn)]
    rfl

/-- Settles O25, by whether the clock is enabled and whether the time reaches the tick. -/
theorem advanceTakesOneTickAtATime : Obligations.AdvanceTakesOneTickAtATime := by
  intro s dt hdt
  rw [exec_vcAdvance_eq hdt]
  refine ⟨fun h => ?stopped, fun hr hd => ⟨fun h => ?before, fun h => ⟨_, exec_vcTick_of_enabled hr hd, ?tick⟩⟩⟩
  case stopped => rw [advance_of_not_enabled h]
  case before => rw [advance_of_before_tick hr hd h]
  case tick => rw [advance_of_tick hr hd h]

end Sys2Proof.Machine

/-! Attach, detach and the completion callbacks as laws of `exec`; the statements about the topology (R322, R323, R353), the
callbacks (R338, R344), the events that are not enabled (R231, R346), and disposal (R230, R422). -/

namespace Sys2Proof.Machine

/-! ### Attach and detach -/

section
variable {s : State} (he : s.ended = false) {a : Nat} (d : Device)
include he

theorem exec_pAttach_of_free (ha : a < 128) (hf : s.device a = none) : exec (.pAttach a d) s =
    .next (raiseFlag .condetIrq ((attachDevice a d s).raw .busState s.par.attachStatus.toNat)) := by
  change execPAttach a d s = _
  rw [execPAttach, live_of_not_ended he, if_neg (Nat.not_le.2 ha), hf]
  rfl

theorem exec_pAttach_of_occupied (ha : a < 128) (ho : s.device a ≠ none) :
    exec (.pAttach a d) s = .refused (.addressOccupied a) := by
  change execPAttach a d s = _
  rw [execPAttach, live_of_not_ended he, if_neg (Nat.not_le.2 ha), if_pos (Option.isSome_iff_ne_none.2 ho)]

theorem exec_pAttach_of_out_of_range (ha : 128 ≤ a) : exec (.pAttach a d) s = .refused (.addressOutOfRange a) := by
  change execPAttach a d s = _
  rw [execPAttach, live_of_not_ended he, if_pos ha]

theorem exec_pDetach_of_occupied (ho : s.device a ≠ none) :
    exec (.pDetach a) s = .next (raiseFlag .condetIrq (detachDevice a s)) := by
  change execPDetach a s = _
  rw [execPDetach, live_of_not_ended he, if_pos (Option.isSome_iff_ne_none.2 ho)]

theorem exec_pDetach_of_free (hf : s.device a = none) : exec (.pDetach a) s = .refused (.addressEmpty a) := by
  change execPDetach a s = _
  rw [execPDetach, live_of_not_ended he, hf]
  rfl

end

/-- The attach status is a 2-bit value, and BUSSTATE has two bits: nothing is cut off (R322). -/
theorem trunc_attachStatus (v : BitVec 2) : trunc FieldId.busState.width v.toNat = v.toNat := Nat.mod_eq_of_lt v.isLt

/-- What an attach leaves (R322). -/
theorem attach_eq (s : State) (a : Nat) (d : Device) :
    raiseFlag .condetIrq ((attachDevice a d s).raw .busState s.par.attachStatus.toNat) =
      (State.withVal { s with dev := keyPut a d (topologyChange s.dev) }
        { s.bank.val with busState := s.par.attachStatus.toNat, condetIrq := 1 }).driven 1 := by
  rw [raiseFlag_eq, State.raw, trunc_attachStatus]
  rfl

/-- What a detach leaves (R323). -/
theorem detach_eq (s : State) (a : Nat) : raiseFlag .condetIrq (detachDevice a s) =
    (State.withVal { s with dev := topologyChange (keyDrop a s.dev) } { s.bank.val with condetIrq := 1 }).driven 1 :=
  raiseFlag_eq .condetIrq _

/-- Settles O44, by the address: free, occupied, out of range. -/
theorem attachAndDetachSetTheFlag : Obligations.AttachAndDetachSetTheFlag := by
  intro s a d he
  refine ⟨fun ha hf => ?attach, exec_pAttach_of_occupied he d, exec_pAttach_of_out_of_range he d,
    fun ho => ?detach, exec_pDetach_of_free he⟩
  case attach =>
    rw [exec_pAttach_of_free he d ha hf, attach_eq]
    rfl
  case detach =>
    rw [exec_pDetach_of_occupied he ho, detach_eq]
    rfl

/-! ### Completion callbacks -/

section
variable (s : State) (n c : Nat) (bs : List Byte)

theorem exec_cbDataReady_eq : exec (.cbDataReady n c bs) s = callback ⟨n, .dataReady⟩ bs s := rfl

theorem exec_cbSetupResp_eq : exec (.cbSetupResp n bs) s = callback ⟨n, .setupResp⟩ bs s := rfl

end

section
variable {s : State} {p : Pending} (bs : List Byte)

theorem callback_of_pending (hp : p ∈ s.pend) (he : s.ended = false) :
    callback p bs s = .next (complete p bs s) := by
  rw [callback, if_pos ⟨hp, he⟩]

theorem callback_of_not_pending (hp : p ∉ s.pend) : callback p bs s = .next s := by
  rw [callback, if_neg fun h => hp h.1]

theorem callback_of_ended (he : s.ended = true) : callback p bs s = .next s := by
  rw [callback, if_neg fun h => Bool.false_ne_true (h.2.symm.trans he)]

end

/-- What a completion leaves: the bytes enqueued, then the two flags and one recompute (R338, R344). -/
theorem complete_eq (p : Pending) (bs : List Byte) (s : State) : complete p bs s =
    ((enqN .rcv bs (unsubscribe p s)).withVal { (enqN .rcv bs (unsubscribe p s)).bank.val with
      rcvDavIrq := if bs = [] then (enqN .rcv bs (unsubscribe p s)).bank.val.rcvDavIrq else 1
      hxfrdnIrq := 1 }).driven 1 := by
  unfold complete
  dsimp only
  rw [raiseFlag_eq]
  by_cases h : bs = []
  · rw [if_pos h, if_pos h]
    rfl
  · rw [if_neg h, if_neg h]
    rfl

/-- A completion takes its own subscription away. -/
theorem not_mem_pend_complete (p : Pending) (bs : List Byte) (s : State) : p ∉ (complete p bs s).pend := by
  rw [complete_eq, State.driven_pend, State.withVal_pend, enqN_pend]
  exact unsubscribe_not_mem p s

/-- Once a callback has fired or could not fire, its subscription is not pending, or the peripheral has ended. -/
theorem callback_of_callback {s t : State} {p : Pending} {bs : List Byte} (h : callback p bs s = .next t)
    (cs : List Byte) : callback p cs t = .next t := by
  by_cases hc : p ∈ s.pend ∧ s.ended = false
  · rw [callback_of_pending bs hc.1 hc.2] at h
    obtain ⟨⟩ := h
    exact callback_of_not_pending cs (not_mem_pend_complete p bs s)
  · rw [callback, if_neg hc] at h
    obtain ⟨⟩ := h
    rw [callback, if_neg hc]

/-- Settles O52, by whether the subscription is pending. -/
theorem callbacksCompletePendingSubscriptions : Obligations.CallbacksCompletePendingSubscriptions := by
  intro s n c bs he
  simp only [exec_cbDataReady_eq, exec_cbSetupResp_eq]
  refine ⟨fun hp => ⟨_, exec_fqEnqN_eq _ _ _, ?_⟩, fun hp => ⟨_, exec_fqEnqN_eq _ _ _, ?_⟩,
    callback_of_not_pending bs, callback_of_not_pending bs⟩
  all_goals
    rw [callback_of_pending bs hp he, complete_eq]
    rfl

/-- After P.RESET nothing is pending (R421). -/
theorem pend_of_exec_pReset {s u : State} (h : exec .pReset s = .next u) : u.pend = [] := by
  cases he : s.ended with
  | false =>
    rw [exec_pReset_eq he] at h
    obtain ⟨⟩ := h
    rfl
  | true =>
    change live s _ = _ at h
    rw [live, he] at h
    exact nomatch h

/-- Settles O53, event by event: the tick by the clock, the callbacks by what is pending. -/
theorem eventsNotEnabledChangeNothing : Obligations.EventsNotEnabledChangeNothing := by
  intro s t u n c bs cs
  simp only [exec_cbDataReady_eq, exec_cbSetupResp_eq]
  refine ⟨exec_vcTick_of_not_enabled, callback_of_not_pending bs, callback_of_not_pending bs,
    fun h => callback_of_callback h cs, fun h => callback_of_callback h cs, fun h => ?_⟩
  have hnone : ∀ p, p ∉ u.pend := fun p => pend_of_exec_pReset h ▸ List.not_mem_nil
  exact ⟨callback_of_not_pending bs (hnone _), callback_of_not_pending bs (hnone _)⟩

/-! ### Disposal -/

theorem live_of_ended {s : State} (he : s.ended = true) (answer : Answer) : live s answer = .refused .disposed := by
  rw [live, he]
  rfl

theorem exec_pDispose_eq {s : State} (he : s.ended = false) :
    exec .pDispose s = .next { clockDispose s with pend := [], ended := true } := live_of_not_ended he _

/-- An agent step on a disposed peripheral, whose clock is disposed with it: refused where the step is enabled, without effect
where it is not (R422). -/
theorem exec_toInstr_of_ended {s : State} (he : s.ended = true) (hd : s.clk.disposed = true) (a : Stimulus) :
    exec a.toInstr s = .next s ∨ exec a.toInstr s = .refused .disposed ∨ ∃ dt, a = .vcAdvance dt ∧ dt < 0 := by
  cases a with
  | vcTick => exact .inl (exec_vcTick_of_not_enabled (.inr hd))
  | vcAdvance dt =>
    by_cases hdt : dt < 0
    · exact .inr (.inr ⟨dt, rfl, hdt⟩)
    · left
      change exec (.vcAdvance dt) s = _
      rw [exec_vcAdvance_eq (not_lt.1 hdt), advance_of_not_enabled (.inr hd)]
  | cbDataReady => exact .inl (callback_of_ended _ he)
  | cbSetupResp => exact .inl (callback_of_ended _ he)
  | _ => exact .inr (.inl (live_of_ended he _))

/-- Settles O55: disposal by its law, and what comes after it agent step by agent step. -/
theorem disposalEndsTheRun : Obligations.DisposalEndsTheRun := by
  refine fun s => ⟨exec_pDispose_eq, fun he hd => ⟨exec_toInstr_of_ended he hd, fun t ht => ?_⟩⟩
  cases hin : s.inbox with
  | nil =>
    rw [step_of_inbox_nil hin] at ht
    obtain ⟨⟩ := ht
    exact ⟨s.inbox, rfl⟩
  | cons a rest =>
    rw [step_of_inbox_cons hin] at ht
    rcases exec_toInstr_of_ended (s := { s with inbox := rest }) he hd a with h | h | ⟨dt, rfl, hdt⟩
    · rw [h] at ht
      obtain ⟨⟩ := ht
      exact ⟨rest, rfl⟩
    · exact nomatch h.symm.trans ht
    · exact nomatch (exec_vcAdvance_of_neg hdt).symm.trans ht

end Sys2Proof.Machine

/-! Small statements that the laws of the families give at once: the bus-facing access (R185, R186), the operations taken by
themselves (log entries 12, 13), two enqueues (R262), and the state after construction (R80). -/

namespace Sys2Proof.Machine

/-- Settles O28: the bus-facing access is the bank's, which lets a frame go on. -/
theorem busAccessIsABankAccess : Obligations.BusAccessIsABankAccess := by
  intro s offset v he
  refine ⟨⟨_, _, exec_rbRead_eq offset 8 s, exec_busRead_eq offset he, fun hk => ?read⟩,
    ⟨_, exec_rbWrite_eq offset 8 v.toNat s, exec_busWrite_eq offset v he, fun hk => ?write⟩, exemplar_keepsFrames⟩
  case read =>
    obtain ⟨hpsm, hcs⟩ := framed_bankRead hk offset 8
    exact ⟨hpsm, hcs⟩
  case write =>
    obtain ⟨hpsm, hcs⟩ := framed_bankWrite hk offset 8 v.toNat
    exact ⟨hpsm, hcs⟩

theorem exec_psmData_of_not_writing {s : State} (h : ∀ t, s.psm.state ≠ .writing t) (b : Byte) :
    exec (.psmData b) s = answerByte (unexpectedByte b s) := by
  change execPsmData b s = _
  unfold execPsmData
  split
  case h_1 t ht => exact absurd ht (h t)
  case h_2 => rfl

theorem exec_psmDummy_of_not_reading {s : State} (h : ∀ t, s.psm.state ≠ .reading t) (b : Byte) :
    exec (.psmDummy b) s = answerByte (unexpectedByte b s) := by
  change execPsmDummy b s = _
  unfold execPsmDummy
  split
  case h_1 t ht => exact absurd ht (h t)
  case h_2 => rfl

/-- Settles O46: a request by the absent device, a byte by the state it is not expected in. -/
theorem internalOperationsTakenByThemselves : Obligations.InternalOperationsTakenByThemselves := by
  intro s v i
  refine ⟨fun hdec habsent => ?request, fun h => exec_psmData_of_not_writing h v,
    fun h => exec_psmDummy_of_not_reading h v⟩
  rw [decode_xfr8_cons] at hdec
  obtain ⟨⟩ := hdec
  rw [exec_transfer_of_absent habsent, absentDevice_eq]

theorem Queue.eq_of_bytes_of_cap : ∀ {q r : Queue}, q.bytes = r.bytes → q.cap = r.cap → q = r
  | ⟨_, _⟩, ⟨_, _⟩, rfl, rfl => rfl

/-- What two range enqueues leave is what one of both sequences leaves (R262). -/
theorem enqN_enqN_queue (s : State) (q : QueueId) (xs ys : List Byte) :
    (enqN q ys (enqN q xs s)).queue q = (enqN q (xs ++ ys) s).queue q := by
  refine Queue.eq_of_bytes_of_cap ?_ ?_
  · rw [enqN_bytes, enqN_cap, enqN_bytes, enqN_bytes]
    cases (s.queue q).cap with
    | none => exact List.append_assoc _ _ _
    | some c =>
      dsimp only
      rw [newest_append, List.append_assoc]
  · rw [enqN_cap, enqN_cap, enqN_cap]

/-- How many bytes a queue with a capacity holds after a range enqueue (R254). -/
theorem enqN_bytes_length {s : State} {q : QueueId} {c : Nat} (hcap : (s.queue q).cap = some c) (bs : List Byte) :
    ((enqN q bs s).queue q).bytes.length = min c ((s.queue q).bytes.length + bs.length) := by
  simp only [enqN_bytes, hcap, newest_length, List.length_append]

/-- Settles O17: the newest of the newest are the newest of all, and what the second enqueue drops is what the first has
left over the capacity. -/
theorem twoEnqueuesAreOne : Obligations.TwoEnqueuesAreOne := by
  intro s t u w q xs ys ht hu hw
  rw [exec_fqEnqN_eq] at ht hu hw
  obtain ⟨⟩ := ht
  obtain ⟨⟩ := hu
  obtain ⟨⟩ := hw
  refine ⟨enqN_enqN_queue s q xs ys, fun c hcap => ?_⟩
  rw [enqN_bytes_length hcap, List.length_append]
  omega

/-! ### The state after construction -/

theorem State.reset_fld (f : FieldId) : State.reset.fld f = 0 := by
  cases f <;> rfl

/-- Settles O56, part by part; the last part is the default declaration passing the construction check. -/
theorem constructionState : Obligations.ConstructionState :=
  ⟨State.reset_fld, rfl, rfl, rfl, rfl, rfl, rfl, rfl, rfl, rfl, rfl, rfl⟩

theorem clockInv_reset : ClockInv State.reset.clk where
  rate := Nat.one_pos
  phase := ⟨le_rfl, by rw [State.reset]; norm_num⟩
  stopped _ := rfl
  disposed h := nomatch h

/-- Settles O57, part by part: all is empty, 0 or false, and the registers are the exemplar's. -/
theorem resetStateMeetsTheInvariant : Obligations.ResetStateMeetsTheInvariant where
  ready := ⟨⟨rfl, rfl⟩, rfl⟩
  bounded f := by rw [State.reset_fld]; exact Nat.two_pow_pos _
  line := rfl
  sudCap := ⟨rfl, Nat.zero_le _⟩
  sndCap := ⟨rfl, Nat.zero_le _⟩
  rcvCap _ _ := Nat.zero_le _
  pendOrder := .nil
  pendOld := nofun
  pendLive _ := rfl
  disposal := rfl
  memory := memory_wf_reset
  addresses := nofun
  clock := clockInv_reset
  enabled _ := ⟨nofun, nofun⟩

end Sys2Proof.Machine

/-! The exemplar's registers: what each read returns and what each write leaves (R54 to R69), first the guard flag under the
shared operations that a write's hooks run, then the registers one by one. -/

namespace Sys2Proof.Machine

/-! ### The guard flag under the shared operations -/

section
variable (b : Bool) (s : State)

theorem recompute_setBusy : recompute (s.setBusy b) = (recompute s).setBusy b := rfl

theorem State.report_setBusy (r : Report) : (s.setBusy b).report r = (s.report r).setBusy b := rfl

theorem State.setBytes_setBusy (q : QueueId) (bs : List Byte) :
    (s.setBusy b).setBytes q bs = (s.setBytes q bs).setBusy b := by
  cases q <;> rfl

theorem enqN_setBusy (q : QueueId) (bs : List Byte) : enqN q bs (s.setBusy b) = (enqN q bs s).setBusy b := by
  simp only [enqN, State.setBusy_queue, State.setBytes_setBusy, State.report_setBusy]
  split
  · rfl
  · split <;> rfl

theorem setupTransaction_setBusy (d : Device) :
    setupTransaction d (s.setBusy b) = (setupTransaction d s).setBusy b := by
  cases h : decodeSetup s.sud.bytes with
  | none =>
    have hshort : s.sud.bytes.length < 8 := by
      by_contra hlong
      exact nomatch (decodeSetup_of_whole (Nat.not_lt.1 hlong)).symm.trans h
    rw [setupTransaction_of_short d hshort, setupTransaction_of_short (s := s.setBusy b) d hshort]
    rfl
  | some p =>
    rw [setupTransaction_of_decoded d h, setupTransaction_of_decoded (s := s.setBusy b) d h]
    rfl

theorem bulkOut_setBusy (e : Endpoint) : bulkOut e (s.setBusy b) = (bulkOut e s).setBusy b := by
  rw [bulkOut_eq, bulkOut_eq]
  rfl

theorem bulkIn_setBusy (eo : Option Endpoint) : bulkIn eo (s.setBusy b) = (bulkIn eo s).setBusy b := by
  cases eo <;> rfl

theorem setupRequest_setBusy (d : Device) (ep : BitVec 4) :
    setupRequest d ep (s.setBusy b) = (setupRequest d ep s).setBusy b := by
  unfold setupRequest
  split
  · rfl
  · exact setupTransaction_setBusy b s d

theorem outRequest_setBusy (d : Device) (ep : BitVec 4) :
    outRequest d ep (s.setBusy b) = (outRequest d ep s).setBusy b := by
  unfold outRequest
  split
  · rfl
  · split
    · rfl
    · exact bulkOut_setBusy b s _

theorem inRequest_setBusy (d : Device) (ep : BitVec 4) :
    inRequest d ep (s.setBusy b) = (inRequest d ep s).setBusy b := by
  unfold inRequest
  split
  · rfl
  · split
    · rfl
    · exact bulkIn_setBusy b s _

theorem transferTrigger_setBusy (v : Byte) : transferTrigger v (s.setBusy b) = (transferTrigger v s).setBusy b := by
  unfold transferTrigger
  cases h : s.device s.bank.val.perAddr with
  | none =>
    rw [request_of_absent _ h, request_of_absent (s := s.setBusy b) _ h]
    rfl
  | some d =>
    rw [request_of_present _ h, request_of_present (s := s.setBusy b) _ h]
    cases decodeTransfer v with
    | setup ep => exact setupRequest_setBusy b s d ep
    | hs => rfl
    | out ep => exact outRequest_setBusy b s d ep
    | inn ep => exact inRequest_setBusy b s d ep

end

/-! ### Reads without providers -/

/-- What a field without provider reads: nothing where it is write-only (R173, R175). -/
def readValue (f : Field) (s : State) : Nat :=
  match f.mode with
  | .wo => 0
  | _ => s.fld f.name

theorem readField_of_no_provider {f : Field} (h : f.mode = .wo ∨ f.provider = none) (s : State) :
    readField f s = (readValue f s, s) := by
  cases hm : f.mode with
  | wo => simp only [readField, readValue, hm]
  | _ =>
    rw [hm] at h
    have hp : f.provider = none := h.resolve_left nofun
    simp only [readField, readValue, hm, hp]

/-- Where no readable field has a provider, a read gathers the fields' values and changes nothing (R172). -/
theorem readFields_of_no_provider (s : State) {fs : List Field} (h : ∀ f ∈ fs, f.mode = .wo ∨ f.provider = none) :
    ∀ acc : Nat, readFields fs acc s = (fs.foldl (fun acc f => acc ||| fieldImage f (readValue f s)) acc, s) := by
  induction fs with
  | nil => exact fun _ => rfl
  | cons f fs ih =>
    intro acc
    obtain ⟨hf, hfs⟩ := List.forall_mem_cons.1 h
    rw [readFields, readField_of_no_provider hf, ih hfs]
    rfl

/-- The registers of the exemplar that have no provider: all but RCVFIFO (R55). -/
theorem exemplar_no_provider {r : Register} (hr : r ∈ exemplarMap) (h : r.index ≠ 1) :
    ∀ f ∈ r.fields, f.mode = .wo ∨ f.provider = none := by
  revert h
  revert r
  decide

/-- A read of a register but RCVFIFO gathers its fields and leaves the state alone (R99, R172). -/
theorem State.ready.bankRead_of_no_provider {s : State} (hs : s.ready) {offset : Int} {r : Register}
    (hr : findRegister exemplarMap offset = some r) (h1 : offset ≠ 1) :
    bankRead offset 8 s = (r.fields.foldl (fun acc f => acc ||| fieldImage f (readValue f s)) 0, s) := by
  obtain ⟨hmem, hindex⟩ := findRegister_some hr
  rw [hs.bankRead_declared hr,
    readFields_of_no_provider _ (exemplar_no_provider hmem (hindex ▸ h1)), State.setBusy_setBusy_eq_self true hs.2]
  rfl

/-! ### The registers one by one -/

/-- The exemplar's registers at their indices (R54). -/
inductive Mapped : Int → Register → Prop where
  | rcvFifo : Mapped 1 regRcvFifo
  | sndFifo : Mapped 2 regSndFifo
  | sudFifo : Mapped 4 regSudFifo
  | sndBc : Mapped 7 regSndBc
  | usbIrq : Mapped 13 regUsbIrq
  | usbIen : Mapped 14 regUsbIen
  | usbCtl : Mapped 15 regUsbCtl
  | cpuCtl : Mapped 16 regCpuCtl
  | hirq : Mapped 25 regHirq
  | hien : Mapped 26 regHien
  | mode : Mapped 27 regMode
  | perAddr : Mapped 28 regPerAddr
  | hxfr : Mapped 30 regHxfr
  | hrsl : Mapped 31 regHrsl

theorem mapped_of_findRegister {offset : Int} {r : Register} (h : findRegister exemplarMap offset = some r) :
    Mapped offset r := by
  obtain ⟨hmem, rfl⟩ := findRegister_some h
  simp only [exemplarMap, List.mem_cons, List.not_mem_nil, or_false] at hmem
  rcases hmem with rfl | rfl | rfl | rfl | rfl | rfl | rfl | rfl | rfl | rfl | rfl | rfl | rfl | rfl
  all_goals constructor

theorem exists_findRegister_of_mem {offset : Int} (h : offset ∈ exemplarIndices) :
    ∃ r, findRegister exemplarMap offset = some r := by
  cases hr : findRegister exemplarMap offset with
  | none => exact absurd h ((findRegister_eq_none _ _).1 hr)
  | some r => exact ⟨r, rfl⟩

/-! ### The images -/

/-- A value above all positions taken so far adds to them (R142). -/
theorem or_shiftLeft_eq_add {acc k : Nat} (h : acc < 2 ^ k) (x : Nat) : acc ||| x <<< k = acc + 2 ^ k * x := by
  rw [Nat.or_comm, ← Nat.shiftLeft_add_eq_or_of_lt h, Nat.shiftLeft_eq, Nat.add_comm, Nat.mul_comm]

/-- Five flags at their places in HIRQ and HIEN do not overlap. -/
theorem hostFlags_image {a b c d : Nat} (ha : a < 2) (hb : b < 2) (hc : c < 2) (hd : d < 2) (e : Nat) :
    0 ||| a <<< 2 ||| b <<< 3 ||| c <<< 5 ||| d <<< 6 ||| e <<< 7 = 4 * a + 8 * b + 32 * c + 64 * d + 128 * e := by
  rw [or_shiftLeft_eq_add (k := 2) (by decide), or_shiftLeft_eq_add (k := 3) (by omega),
    or_shiftLeft_eq_add (k := 5) (by omega), or_shiftLeft_eq_add (k := 6) (by omega),
    or_shiftLeft_eq_add (k := 7) (by omega)]
  omega

/-- What the fields of a register but RCVFIFO make up is its image (R54, R142). -/
theorem readFields_image {s : State} (hb : s.bounded) {offset : Int} {r : Register} (hr : Mapped offset r)
    (h1 : offset ≠ 1) :
    r.fields.foldl (fun acc f => acc ||| fieldImage f (readValue f s)) 0 = registerImage s.bank.val offset := by
  have hone (x k : Nat) : 0 ||| x <<< k = 2 ^ k * x := by
    rw [or_shiftLeft_eq_add (Nat.two_pow_pos k), Nat.zero_add]
  have hzero (x : Nat) : 0 ||| x <<< 0 = x := by rw [hone, Nat.pow_zero, Nat.one_mul]
  cases hr with
  | rcvFifo => exact absurd rfl h1
  | sndFifo | sudFifo => exact hzero 0
  | sndBc | usbIrq | usbIen | cpuCtl | perAddr | hxfr => exact hzero _
  | usbCtl => exact hone _ 5
  | mode => exact hone _ 3
  | hrsl => exact hone _ 6
  | hirq => exact hostFlags_image (hb .rcvDavIrq) (hb .sndBavIrq) (hb .condetIrq) (hb .frameIrq) _
  | hien => exact hostFlags_image (hb .rcvDavIe) (hb .sndBavIe) (hb .condetIe) (hb .frameIe) _

/-- A read of a register but RCVFIFO returns its image and leaves the state alone (R99, R142). -/
theorem State.ready.bankRead_image {s : State} (hs : s.ready) (hb : s.bounded) {offset : Int} {r : Register}
    (hr : findRegister exemplarMap offset = some r) (h1 : offset ≠ 1) :
    bankRead offset 8 s = (registerImage s.bank.val offset, s) := by
  rw [hs.bankRead_of_no_provider hr h1, readFields_image hb (mapped_of_findRegister hr) h1]

/-! ### The writes -/

/-- Fields whose one hook is the recompute drive the line once each (R59, R60, R62 to R64). -/
theorem runHooks_of_recompute {fs : List Field}
    (h : ∀ f ∈ fs, f.mode ≠ .ro ∧ f.writeEffect = none ∧ f.postWrite = some recomputeHook) (hne : fs ≠ [])
    (before after : FieldVals) : ∀ s : State, runHooks before after fs s = s.driven fs.length := by
  have hfield (f : Field) (hf : f.mode ≠ .ro ∧ f.writeEffect = none ∧ f.postWrite = some recomputeHook)
      (old new : Nat) (s : State) : fieldHooks f old new s = s.driven 1 := by
    obtain ⟨hm, hw, hp⟩ := hf
    unfold fieldHooks
    split
    · next hro => exact absurd hro hm
    · rw [hw, hp, callPresent, callPresent, callHook_recompute, recompute_eq]
  induction fs with
  | nil => exact absurd rfl hne
  | cons f fs ih =>
    intro s
    obtain ⟨hf, hfs⟩ := List.forall_mem_cons.1 h
    rw [runHooks, hfield f hf]
    cases fs with
    | nil => rfl
    | cons g gs =>
      rw [ih hfs nofun, driven_driven, Nat.add_comm]
      rfl

theorem storeFields_setBusy (W v : Nat) (b : Bool) (fs : List Field) :
    ∀ s : State, storeFields W v fs (s.setBusy b) = (storeFields W v fs s).setBusy b := by
  induction fs with
  | nil => exact fun _ => rfl
  | cons f fs ih =>
    intro s
    have hf : storeField W v f (s.setBusy b) = (storeField W v f s).setBusy b := by
      unfold storeField
      split <;> rfl
    rw [storeFields, storeFields, hf, ih]

theorem storeFields_busy (W v : Nat) (fs : List Field) (s : State) :
    (storeFields W v fs s).bank.busy = s.bank.busy := by
  rw [← State.setBusy_eq_self (s := s) rfl, storeFields_setBusy]
  rfl

/-- The exemplar's hooks do not look at the guard. -/
theorem callPresent_setBusy {r : Register} {f : Field} (hr : r ∈ exemplarMap) (hf : f ∈ r.fields) (b : Bool)
    (old new : Nat) (s : State) :
    callPresent f.writeEffect old new (s.setBusy b) = (callPresent f.writeEffect old new s).setBusy b ∧
      callPresent f.postWrite old new (s.setBusy b) = (callPresent f.postWrite old new s).setBusy b := by
  obtain ⟨-, hw, hp⟩ := exemplar_hooks r hr f hf
  constructor
  · rcases hw with h | h | h <;> rw [h]
    · rfl
    · exact enqN_setBusy b s _ _
    · exact enqN_setBusy b s _ _
  · rcases hp with h | h | h | h | h <;> rw [h]
    · rfl
    · exact recompute_setBusy b s
    · rw [callPresent, callPresent, callHook_oscOk, callHook_oscOk]
      split <;> rfl
    · rw [callPresent, callPresent, callHook_clock, callHook_clock]
      split
      · exact clockStart_setBusy b s
      · exact clockStop_setBusy b s
    · exact transferTrigger_setBusy b s _

theorem runHooks_setBusy {r : Register} (hr : r ∈ exemplarMap) (before after : FieldVals) (b : Bool) (fs : List Field) :
    (∀ f ∈ fs, f ∈ r.fields) →
    ∀ s : State, runHooks before after fs (s.setBusy b) = (runHooks before after fs s).setBusy b := by
  induction fs with
  | nil => exact fun _ _ => rfl
  | cons f fs ih =>
    intro hfs s
    obtain ⟨hf, hfs⟩ := List.forall_mem_cons.1 hfs
    have hfield (old new : Nat) : fieldHooks f old new (s.setBusy b) = (fieldHooks f old new s).setBusy b := by
      unfold fieldHooks
      split
      · rfl
      · rw [(callPresent_setBusy hr hf b old new s).1, (callPresent_setBusy hr hf b old new _).2]
    rw [runHooks, runHooks, hfield, ih hfs]

/-- A write to a register of the exemplar is its stores and its hooks: the guard is set and cleared around them (R176). -/
theorem State.ready.writeRegister_eq {s t : State} (hs : s.ready) {r : Register} (hr : r ∈ exemplarMap) {value : Nat}
    (ht : storeFields 8 value r.fields s = t) :
    writeRegister r value s = runHooks s.bank.val t.bank.val r.fields t := by
  obtain ⟨⟨hw, -⟩, hb⟩ := hs
  have hbusy : (runHooks s.bank.val t.bank.val r.fields t).bank.busy = false := by
    rw [(grows_runHooks _ _ _ t).2.busy, ← ht, storeFields_busy, hb]
  rw [writeRegister, hw, storeFields_setBusy, ht, State.setBusy_val, runHooks_setBusy hr _ _ _ _ fun _ h => h,
    State.setBusy_setBusy_eq_self true hbusy]

/-! ### Phase 1 of a write, register by register -/

theorem State.setFld_eq_withVal (s : State) (f : FieldId) (v : Nat) :
    s.setFld f v = s.withVal (s.bank.val.set f v) := rfl

theorem State.withVal_withVal (s : State) (a b : FieldVals) : (s.withVal a).withVal b = s.withVal b := rfl

section
variable (s : State) (value : Nat)

theorem storeFields_sndFifo :
    storeFields 8 value regSndFifo.fields s = s.withVal { s.bank.val with sndData := value % 256 } := by
  simp (disch := decide) only [regSndFifo, storeFields, storeField, fieldPart_eq, Nat.pow_zero, Nat.div_one]
  rfl

theorem storeFields_sudFifo :
    storeFields 8 value regSudFifo.fields s = s.withVal { s.bank.val with sudData := value % 256 } := by
  simp (disch := decide) only [regSudFifo, storeFields, storeField, fieldPart_eq, Nat.pow_zero, Nat.div_one]
  rfl

theorem storeFields_sndBc :
    storeFields 8 value regSndBc.fields s = s.withVal { s.bank.val with sndBc := value % 128 } := by
  simp (disch := decide) only [regSndBc, storeFields, storeField, fieldPart_eq, Nat.pow_zero, Nat.div_one]
  rfl

theorem storeFields_perAddr :
    storeFields 8 value regPerAddr.fields s = s.withVal { s.bank.val with perAddr := value % 128 } := by
  simp (disch := decide) only [regPerAddr, storeFields, storeField, fieldPart_eq, Nat.pow_zero, Nat.div_one]
  rfl

theorem storeFields_hxfr :
    storeFields 8 value regHxfr.fields s = s.withVal { s.bank.val with hxfr := value % 256 } := by
  simp (disch := decide) only [regHxfr, storeFields, storeField, fieldPart_eq, Nat.pow_zero, Nat.div_one]
  rfl

theorem storeFields_usbIen :
    storeFields 8 value regUsbIen.fields s = s.withVal { s.bank.val with oscOkIe := value % 2 } := by
  simp (disch := decide) only [regUsbIen, enableField, storeFields, storeField, fieldPart_eq, Nat.pow_zero, Nat.div_one]
  rfl

theorem storeFields_cpuCtl :
    storeFields 8 value regCpuCtl.fields s = s.withVal { s.bank.val with ie := value % 2 } := by
  simp (disch := decide) only [regCpuCtl, enableField, storeFields, storeField, fieldPart_eq, Nat.pow_zero, Nat.div_one]
  rfl

theorem storeFields_usbIrq : storeFields 8 value regUsbIrq.fields s =
    s.withVal { s.bank.val with oscOkIrq := w1cNew 1 s.bank.val.oscOkIrq (value % 2) } := by
  simp (disch := decide) only [regUsbIrq, requestField, storeFields, storeField, fieldPart_eq, Nat.pow_zero,
    Nat.div_one]
  rfl

theorem storeFields_hirq : storeFields 8 value regHirq.fields s = s.withVal { s.bank.val with
    rcvDavIrq := w1cNew 1 s.bank.val.rcvDavIrq (value / 4 % 2)
    sndBavIrq := w1cNew 1 s.bank.val.sndBavIrq (value / 8 % 2)
    condetIrq := w1cNew 1 s.bank.val.condetIrq (value / 32 % 2)
    frameIrq := w1cNew 1 s.bank.val.frameIrq (value / 64 % 2)
    hxfrdnIrq := w1cNew 1 s.bank.val.hxfrdnIrq (value / 128 % 2) } := by
  simp (disch := decide) only [regHirq, requestField, storeFields, storeField, fieldPart_eq, Field.width, FieldId.width,
    Nat.reducePow, State.setFld_eq_withVal, State.withVal_withVal, State.fld_eq, State.withVal_bank, FieldVals.set,
    FieldVals.get]

theorem storeFields_hien : storeFields 8 value regHien.fields s = s.withVal { s.bank.val with
    rcvDavIe := value / 4 % 2
    sndBavIe := value / 8 % 2
    condetIe := value / 32 % 2
    frameIe := value / 64 % 2
    hxfrdnIe := value / 128 % 2 } := by
  simp (disch := decide) only [regHien, enableField, storeFields, storeField, fieldPart_eq, Field.width, FieldId.width,
    Nat.reducePow, State.setFld_eq_withVal, State.withVal_withVal, State.withVal_bank, FieldVals.set]

end

/-! ### What a write leaves, register by register -/

/-- A stored byte that a hook hands on loses nothing: what was written is cut to eight bits either way. -/
theorem ofNat_mod_256 (value : Nat) : BitVec.ofNat 8 (value % 256) = BitVec.ofNat 8 value := by
  apply BitVec.eq_of_toNat_eq
  rw [BitVec.toNat_ofNat, BitVec.toNat_ofNat, Nat.mod_mod]

/-- The hooks of the four registers whose fields all recompute (R59, R60, R62 to R64). -/
theorem State.ready.writeRegister_of_recompute {s t : State} (hs : s.ready) {r : Register} (hr : r ∈ exemplarMap)
    {value : Nat} (ht : storeFields 8 value r.fields s = t) (hne : r.fields ≠ [])
    (h : ∀ f ∈ r.fields, f.mode ≠ .ro ∧ f.writeEffect = none ∧ f.postWrite = some recomputeHook) :
    writeRegister r value s = t.driven r.fields.length := by
  rw [hs.writeRegister_eq hr ht, runHooks_of_recompute h hne]

/-- What a bus-side write of `value` to an index of the exemplar can leave, the registers in the order of R54 and before
them the accesses that reach none (R176, R178, R183). -/
inductive Written (s : State) (value : Nat) : Int → State → Prop where
  | reentrant (offset : Int) (h : s.bank.busy = true) : Written s value offset (s.report (.reentrant offset))
  | unmapped (offset : Int) (h : offset ∉ exemplarIndices) :
      Written s value offset (s.report (.unmappedWrite offset value))
  | rcvFifo : Written s value 1 s
  | sndFifo : Written s value 2
      (enq1 .snd (BitVec.ofNat 8 value) (s.withVal { s.bank.val with sndData := value % 256 }))
  | sudFifo : Written s value 4
      (enq1 .sud (BitVec.ofNat 8 value) (s.withVal { s.bank.val with sudData := value % 256 }))
  | sndBc : Written s value 7 (s.withVal { s.bank.val with sndBc := value % 128 })
  | usbIrq : Written s value 13
      ((s.withVal { s.bank.val with oscOkIrq := w1cNew 1 s.bank.val.oscOkIrq (value % 2) }).driven 1)
  | usbIen : Written s value 14 ((s.withVal { s.bank.val with oscOkIe := value % 2 }).driven 1)
  | usbCtlFall (h : s.bank.val.chipRes = 1 ∧ value / 32 % 2 = 0) : Written s value 15
      ((s.withVal { s.bank.val with chipRes := 0, oscOkIrq := 1 }).driven 1)
  | usbCtl : Written s value 15 (s.withVal { s.bank.val with chipRes := value / 32 % 2 })
  | cpuCtl : Written s value 16 ((s.withVal { s.bank.val with ie := value % 2 }).driven 1)
  | hirq : Written s value 25 ((s.withVal { s.bank.val with
      rcvDavIrq := w1cNew 1 s.bank.val.rcvDavIrq (value / 4 % 2)
      sndBavIrq := w1cNew 1 s.bank.val.sndBavIrq (value / 8 % 2)
      condetIrq := w1cNew 1 s.bank.val.condetIrq (value / 32 % 2)
      frameIrq := w1cNew 1 s.bank.val.frameIrq (value / 64 % 2)
      hxfrdnIrq := w1cNew 1 s.bank.val.hxfrdnIrq (value / 128 % 2) }).driven 5)
  | hien : Written s value 26 ((s.withVal { s.bank.val with
      rcvDavIe := value / 4 % 2
      sndBavIe := value / 8 % 2
      condetIe := value / 32 % 2
      frameIe := value / 64 % 2
      hxfrdnIe := value / 128 % 2 }).driven 5)
  | modeStart (h : value / 8 % 2 = 1) : Written s value 27
      (clockStart (s.withVal { s.bank.val with sofKaEnab := 1 }))
  | modeStop (h : value / 8 % 2 = 0) : Written s value 27
      (clockStop (s.withVal { s.bank.val with sofKaEnab := 0 }))
  | perAddr : Written s value 28 (s.withVal { s.bank.val with perAddr := value % 128 })
  | hxfr : Written s value 30
      (transferTrigger (BitVec.ofNat 8 value) (s.withVal { s.bank.val with hxfr := value % 256 }))
  | hrsl : Written s value 31 s

section
variable {s : State} (hs : s.ready) (value : Nat)
include hs

theorem State.ready.writeRegister_sndFifo : writeRegister regSndFifo value s =
    enq1 .snd (BitVec.ofNat 8 value) (s.withVal { s.bank.val with sndData := value % 256 }) := by
  rw [hs.writeRegister_eq (by decide) (storeFields_sndFifo s value), ← ofNat_mod_256]
  rfl

theorem State.ready.writeRegister_sudFifo : writeRegister regSudFifo value s =
    enq1 .sud (BitVec.ofNat 8 value) (s.withVal { s.bank.val with sudData := value % 256 }) := by
  rw [hs.writeRegister_eq (by decide) (storeFields_sudFifo s value), ← ofNat_mod_256]
  rfl

theorem State.ready.writeRegister_hxfr : writeRegister regHxfr value s =
    transferTrigger (BitVec.ofNat 8 value) (s.withVal { s.bank.val with hxfr := value % 256 }) := by
  rw [hs.writeRegister_eq (by decide) (storeFields_hxfr s value), ← ofNat_mod_256]
  rfl

theorem State.ready.writeRegister_sndBc :
    writeRegister regSndBc value s = s.withVal { s.bank.val with sndBc := value % 128 } :=
  hs.writeRegister_eq (by decide) (storeFields_sndBc s value)

theorem State.ready.writeRegister_perAddr :
    writeRegister regPerAddr value s = s.withVal { s.bank.val with perAddr := value % 128 } :=
  hs.writeRegister_eq (by decide) (storeFields_perAddr s value)

theorem State.ready.writeRegister_usbIrq : writeRegister regUsbIrq value s =
    (s.withVal { s.bank.val with oscOkIrq := w1cNew 1 s.bank.val.oscOkIrq (value % 2) }).driven 1 :=
  hs.writeRegister_of_recompute (by decide) (storeFields_usbIrq s value) (by decide) (by decide)

theorem State.ready.writeRegister_usbIen :
    writeRegister regUsbIen value s = (s.withVal { s.bank.val with oscOkIe := value % 2 }).driven 1 :=
  hs.writeRegister_of_recompute (by decide) (storeFields_usbIen s value) (by decide) (by decide)

theorem State.ready.writeRegister_cpuCtl :
    writeRegister regCpuCtl value s = (s.withVal { s.bank.val with ie := value % 2 }).driven 1 :=
  hs.writeRegister_of_recompute (by decide) (storeFields_cpuCtl s value) (by decide) (by decide)

theorem State.ready.writeRegister_hirq : writeRegister regHirq value s = (s.withVal { s.bank.val with
    rcvDavIrq := w1cNew 1 s.bank.val.rcvDavIrq (value / 4 % 2)
    sndBavIrq := w1cNew 1 s.bank.val.sndBavIrq (value / 8 % 2)
    condetIrq := w1cNew 1 s.bank.val.condetIrq (value / 32 % 2)
    frameIrq := w1cNew 1 s.bank.val.frameIrq (value / 64 % 2)
    hxfrdnIrq := w1cNew 1 s.bank.val.hxfrdnIrq (value / 128 % 2) }).driven 5 :=
  hs.writeRegister_of_recompute (by decide) (storeFields_hirq s value) (by decide) (by decide)

theorem State.ready.writeRegister_hien : writeRegister regHien value s = (s.withVal { s.bank.val with
    rcvDavIe := value / 4 % 2
    sndBavIe := value / 8 % 2
    condetIe := value / 32 % 2
    frameIe := value / 64 % 2
    hxfrdnIe := value / 128 % 2 }).driven 5 :=
  hs.writeRegister_of_recompute (by decide) (storeFields_hien s value) (by decide) (by decide)

/-- A read-only field takes nothing from a write and has no hook called (R179, R181). -/
theorem State.ready.writeRegister_hrsl : writeRegister regHrsl value s = s := State.setBusy_setBusy_eq_self true hs.2

/-- A write that reaches a register leaves what the register's law says. -/
theorem State.ready.written_writeRegister {offset : Int} {r : Register} (hr : Mapped offset r) :
    Written s value offset (writeRegister r value s) := by
  cases hr with
  | rcvFifo =>
    rw [writeRegister_rcvFifo, State.setBusy_eq_self hs.2]
    exact .rcvFifo
  | sndFifo => rw [hs.writeRegister_sndFifo]; exact .sndFifo
  | sudFifo => rw [hs.writeRegister_sudFifo]; exact .sudFifo
  | sndBc => rw [hs.writeRegister_sndBc]; exact .sndBc
  | usbIrq => rw [hs.writeRegister_usbIrq]; exact .usbIrq
  | usbIen => rw [hs.writeRegister_usbIen]; exact .usbIen
  | usbCtl =>
    rw [hs.writeRegister_usbCtl]
    split
    case isTrue h =>
      rw [raiseFlag_eq, h.2]
      exact .usbCtlFall h
    case isFalse => exact .usbCtl
  | cpuCtl => rw [hs.writeRegister_cpuCtl]; exact .cpuCtl
  | hirq => rw [hs.writeRegister_hirq]; exact .hirq
  | hien => rw [hs.writeRegister_hien]; exact .hien
  | mode =>
    rw [hs.writeRegister_mode]
    split
    case isTrue h =>
      rw [h]
      exact .modeStart h
    case isFalse h =>
      rw [Nat.mod_two_ne_one.1 h]
      exact .modeStop (Nat.mod_two_ne_one.1 h)
  | perAddr => rw [hs.writeRegister_perAddr]; exact .perAddr
  | hxfr => rw [hs.writeRegister_hxfr]; exact .hxfr
  | hrsl => rw [hs.writeRegister_hrsl]; exact .hrsl

end

/-- What a bus-side write to the exemplar's bank can leave. -/
theorem State.exemplar.written_bankWrite {s : State} (hs : s.exemplar) (offset : Int) (value : Nat) :
    Written s value offset (bankWrite offset 8 value s) := by
  cases hb : s.bank.busy with
  | true =>
    rw [bankWrite_busy _ _ _ hb]
    exact .reentrant offset hb
  | false =>
    have hready : s.ready := ⟨hs, hb⟩
    cases hr : findRegister exemplarMap offset with
    | none =>
      have hun : offset ∉ exemplarIndices := (findRegister_eq_none _ _).1 hr
      rw [hready.bankWrite_unmapped hun]
      exact .unmapped offset hun
    | some r =>
      have hw : bankWrite offset 8 value s = writeRegister r value s := by
        rw [← hs.1]
        exact bankWrite_declared value hb (hs.2 ▸ hr)
      rw [hw]
      exact hready.written_writeRegister value (mapped_of_findRegister hr)

/-- What a bus-side read of an index of the exemplar can leave: the state as it is, a dequeue, or one report (R99, R55,
R172 to R174, R183). -/
inductive ReadDone (s : State) (offset : Int) : State → Prop where
  | reentrant (h : s.bank.busy = true) : ReadDone s offset (s.report (.reentrant offset))
  | unmapped : ReadDone s offset (s.report (.unmappedRead offset))
  | rcvFifo (h : offset = 1) : ReadDone s offset (deq1 .rcv s).2
  | image : ReadDone s offset s

theorem State.exemplar.readDone_bankRead {s : State} (hs : s.exemplar) (offset : Int) :
    ReadDone s offset (bankRead offset 8 s).2 := by
  cases hb : s.bank.busy with
  | true =>
    rw [bankRead_busy _ _ hb]
    exact .reentrant hb
  | false =>
    have hready : s.ready := ⟨hs, hb⟩
    cases hr : findRegister exemplarMap offset with
    | none =>
      rw [hready.bankRead_unmapped ((findRegister_eq_none _ _).1 hr)]
      exact .unmapped
    | some r =>
      by_cases h1 : offset = 1
      · subst h1
        rw [hready.bankRead_rcvFifo]
        exact .rcvFifo rfl
      · rw [hready.bankRead_of_no_provider hr h1]
        exact .image

/-! ### The statements -/

/-- Settles O30: the register found has no provider, and its fields make up its image. -/
theorem registerReadsReturnTheImage : Obligations.RegisterReadsReturnTheImage := by
  intro s offset hs hb hmem h1
  obtain ⟨r, hr⟩ := exists_findRegister_of_mem hmem
  rw [exec_rbRead_eq, hs.bankRead_image hb hr h1]
  rfl

/-- Settles O32, register by register. -/
theorem plainAndFifoRegisterWrites : Obligations.PlainAndFifoRegisterWrites := by
  intro s value hs
  refine ⟨?hrsl, ?sndBc, ?perAddr, ⟨_, rfl, ?sndFifo⟩, ⟨_, rfl, ?sudFifo⟩⟩
  case hrsl => rw [hs.exec_rbWrite_declared findRegister_hrsl, hs.writeRegister_hrsl]
  case sndBc => rw [hs.exec_rbWrite_declared findRegister_sndBc, hs.writeRegister_sndBc]
  case perAddr => rw [hs.exec_rbWrite_declared findRegister_perAddr, hs.writeRegister_perAddr]
  case sndFifo => rw [hs.exec_rbWrite_declared findRegister_sndFifo, hs.writeRegister_sndFifo]
  case sudFifo => rw [hs.exec_rbWrite_declared findRegister_sudFifo, hs.writeRegister_sudFifo]

/-- Settles O33, register by register. -/
theorem enableRegisterWrites : Obligations.EnableRegisterWrites := by
  intro s value hs
  refine ⟨?usbIen, ?cpuCtl, ?hien⟩
  case usbIen => rw [hs.exec_rbWrite_declared findRegister_usbIen, hs.writeRegister_usbIen]
  case cpuCtl => rw [hs.exec_rbWrite_declared findRegister_cpuCtl, hs.writeRegister_cpuCtl]
  case hien => rw [hs.exec_rbWrite_declared findRegister_hien, hs.writeRegister_hien]

/-- A pending flag after a write, by the bit of the value at the flag's place (R153). -/
theorem w1cNew_testBit {old : Nat} (ho : old < 2) (value k : Nat) :
    w1cNew 1 old (value / 2 ^ k % 2) = if value.testBit k then 0 else old := by
  rw [w1cNew_bit old _ ho (Nat.mod_lt _ (by decide)), Nat.testBit_eq_decide_div_mod_eq]
  simp only [decide_eq_true_eq]

/-- Settles O34: the write-one-to-clear law on each flag, by the bit written to it. -/
theorem pendingRegisterWritesClear : Obligations.PendingRegisterWritesClear := by
  intro s value hs hb
  constructor
  · have hosc : w1cNew 1 s.bank.val.oscOkIrq (value / 2 ^ 0 % 2) = _ := w1cNew_testBit (hb .oscOkIrq) value 0
    rw [Nat.pow_zero, Nat.div_one] at hosc
    rw [hs.exec_rbWrite_declared findRegister_usbIrq, hs.writeRegister_usbIrq, hosc]
    rfl
  · have hrcv : w1cNew 1 s.bank.val.rcvDavIrq (value / 4 % 2) = _ := w1cNew_testBit (hb .rcvDavIrq) value 2
    have hsnd : w1cNew 1 s.bank.val.sndBavIrq (value / 8 % 2) = _ := w1cNew_testBit (hb .sndBavIrq) value 3
    have hcon : w1cNew 1 s.bank.val.condetIrq (value / 32 % 2) = _ := w1cNew_testBit (hb .condetIrq) value 5
    have hframe : w1cNew 1 s.bank.val.frameIrq (value / 64 % 2) = _ := w1cNew_testBit (hb .frameIrq) value 6
    have hdone : w1cNew 1 s.bank.val.hxfrdnIrq (value / 128 % 2) = _ := w1cNew_testBit (hb .hxfrdnIrq) value 7
    rw [hs.exec_rbWrite_declared findRegister_hirq, hs.writeRegister_hirq, hrcv, hsnd, hcon, hframe, hdone]
    rfl

/-- Settles O37: the one hook of HXFR is the trigger, run on the stored byte. -/
theorem transferRegisterWriteTriggers : Obligations.TransferRegisterWriteTriggers := by
  intro s value hs
  refine ⟨_, rfl, ?_⟩
  rw [hs.exec_rbWrite_declared findRegister_hxfr, hs.writeRegister_hxfr]

end Sys2Proof.Machine

/-! What every operation keeps, for every declaration and whatever its hooks: one induction over the updates that operations
are made of, then the two statements that follow from it: the queues' capacities (R47, R251) and the history (R30, R53, R158,
R226, R230). -/

namespace Sys2Proof.Machine

/-- A relation between the state before and after that is kept by every update operations are made of. VC.OBTAIN, which
replaces the clock at construction (R226, log entry 15), is not among them. -/
structure KeptByUpdates (R : State → State → Prop) : Prop where
  refl : ∀ s, R s s
  trans : ∀ {s t u}, R s t → R t u → R s u
  report : ∀ s r, R s (s.report r)
  emit : ∀ s o, R s (s.emit o)
  /-- a field takes a value of its width (R31) -/
  setFld : ∀ s f v, v < 2 ^ f.width → R s (s.setFld f v)
  /-- a field loses the bits written as 1 (R153) -/
  clearBits : ∀ s f x, R s (s.setFld f (w1cNew f.width (s.fld f) x))
  setBusy : ∀ s b, R s (s.setBusy b)
  setLine : ∀ s b, R s (setLine b s)
  enqN : ∀ s q bs, R s (enqN q bs s)
  dequeue : ∀ s q n, R s (s.setBytes q ((s.queue q).bytes.drop n))
  start : ∀ s, R s (clockStart s)
  stop : ∀ s, R s (clockStop s)
  disposeClock : ∀ s, R s (clockDispose s)
  rewind : ∀ s, R s { s with clk := { s.clk with elapsed := 0 } }
  /-- time passes inside a period of a running clock (R233) -/
  elapse : ∀ s dt, 0 ≤ dt → s.clk.running = true → s.clk.elapsed + dt < 1 / (s.clk.rate : Rat) →
    R s { s with clk := { s.clk with elapsed := s.clk.elapsed + dt } }
  subscribe : ∀ s k, R s (subscribe k s).2
  unsubscribe : ∀ s p, R s (unsubscribe p s)
  unsubscribeAll : ∀ s, R s { s with pend := [] }
  finish : ∀ s, R s { s with ended := true }
  attach : ∀ s a d, a < 128 → R s (attachDevice a d s)
  detach : ∀ s a, R s (detachDevice a s)
  frame : ∀ s p c, R s { s with psm := p, cs := c }
  schedule : ∀ s i, R s { s with inbox := i }

/-- What is masked to a width is of that width (R12). -/
theorem and_mask_lt (x n : Nat) : x &&& mask n < 2 ^ n := by
  rw [mask, Nat.and_two_pow_sub_one_eq_mod]
  exact Nat.mod_lt _ (Nat.two_pow_pos _)

theorem next_of_live {s t : State} {answer : Answer} (h : live s answer = .next t) :
    s.ended = false ∧ answer = .next t := by
  cases he : s.ended with
  | false => exact ⟨rfl, live_of_not_ended he answer ▸ h⟩
  | true => exact nomatch (live_of_ended he answer).symm.trans h

namespace KeptByUpdates

variable {R : State → State → Prop} (hR : KeptByUpdates R)
include hR

/-! ### The shared operations -/

theorem clear (s : State) (q : QueueId) : R s (s.setBytes q []) := by
  have h := hR.dequeue s q (s.queue q).bytes.length
  rwa [List.drop_length] at h

theorem deq1 (s : State) (q : QueueId) : R s (deq1 q s).2 := by
  cases hq : (s.queue q).bytes with
  | nil =>
    rw [deq1_nil hq]
    exact hR.report s _
  | cons b bs =>
    have h := hR.dequeue s q 1
    rw [hq, List.drop_one, List.tail_cons] at h
    rwa [deq1_cons hq]

theorem recompute (s : State) : R s (recompute s) := hR.setLine s _

/-- A raw update cuts its value to the field's width (R40). -/
theorem raw (s : State) (f : FieldId) (v : Nat) : R s (s.raw f v) :=
  hR.setFld s f _ (Nat.mod_lt _ (Nat.two_pow_pos _))

theorem raiseFlag (s : State) (f : FieldId) : R s (raiseFlag f s) := hR.trans (hR.raw s f 1) (hR.recompute _)

theorem clockTick (s : State) : R s (clockTick s) := by
  unfold Machine.clockTick
  cases s.clk.callback
  exact hR.trans (hR.rewind s) (hR.raiseFlag _ _)

theorem setupTransaction (s : State) (d : Device) : R s (setupTransaction d s) := by
  unfold Machine.setupTransaction
  dsimp only
  split
  · exact hR.trans (hR.clear s .sud) (hR.report _ _)
  · exact hR.trans (hR.trans (hR.clear s .sud) (hR.subscribe _ _)) (hR.emit _ _)

theorem bulkOut (s : State) (e : Endpoint) : R s (bulkOut e s) := by
  have hmismatch (n k : Nat) : R s (reportMismatch n k s) := by
    unfold reportMismatch
    split
    · exact hR.report s _
    · exact hR.refl s
  have hflags (u : State) : R u (bulkOutFlags u) := by
    unfold bulkOutFlags
    split
    · exact hR.trans (hR.raw u _ _) (hR.raw _ _ _)
    · exact hR.raw u _ _
  have hdeliver (u : State) (n : Nat) : R u (deliver e n u) := hR.trans (hR.dequeue u .snd n) (hR.emit _ _)
  exact hR.trans (hR.trans (hR.trans (hmismatch _ _) (hdeliver _ _)) (hflags _)) (hR.recompute _)

theorem bulkIn (s : State) (eo : Option Endpoint) : R s (bulkIn eo s) := by
  cases eo with
  | none => exact hR.raiseFlag s _
  | some e => exact hR.trans (hR.subscribe s _) (hR.emit _ _)

theorem setupRequest (s : State) (d : Device) (ep : BitVec 4) : R s (setupRequest d ep s) := by
  unfold Machine.setupRequest
  split
  · exact hR.report s _
  · exact hR.setupTransaction s d

theorem outRequest (s : State) (d : Device) (ep : BitVec 4) : R s (outRequest d ep s) := by
  unfold Machine.outRequest
  split
  · exact hR.raiseFlag s _
  · split
    · exact hR.trans (hR.report s _) (hR.raiseFlag _ _)
    · exact hR.bulkOut s _

theorem inRequest (s : State) (d : Device) (ep : BitVec 4) : R s (inRequest d ep s) := by
  unfold Machine.inRequest
  split
  · exact hR.bulkIn s _
  · split
    · exact hR.trans (hR.report s _) (hR.bulkIn _ _)
    · exact hR.bulkIn s _

theorem request (s : State) {onDevice : Device → State → State} (h : ∀ d, R s (onDevice d s)) :
    R s (request onDevice s) := by
  unfold Machine.request
  split
  · exact hR.trans (hR.report s _) (hR.raiseFlag _ _)
  · exact h _

theorem transferTrigger (s : State) (v : Byte) : R s (transferTrigger v s) := by
  refine hR.request s fun d => ?_
  cases decodeTransfer v with
  | setup ep => exact hR.setupRequest s d ep
  | hs => exact hR.raiseFlag s _
  | out ep => exact hR.outRequest s d ep
  | inn ep => exact hR.inRequest s d ep

theorem complete (s : State) (p : Pending) (bs : List Byte) : R s (complete p bs s) := by
  have h := hR.trans (hR.unsubscribe s p) (hR.enqN _ .rcv bs)
  unfold Machine.complete
  dsimp only
  split
  · exact hR.trans h (hR.raiseFlag _ _)
  · exact hR.trans (hR.trans h (hR.raw _ _ _)) (hR.raiseFlag _ _)

theorem command (s : State) (c : Command) : R s (command c s) := by
  cases c <;> exact hR.frame s _ s.cs

/-! ### Hooks and bank accesses -/

theorem runCall (c : HookCall) (x : HookRun) : R x.state (runCall c x).state := by
  cases c with
  | setNum | push | drop => exact hR.refl _
  | raw => exact hR.raw _ _ _
  | enq1 | enqN => exact hR.enqN _ _ _
  | deq1 => exact hR.deq1 _ _
  | deqN => exact hR.dequeue _ _ _
  | deqAll | clear => exact hR.clear _ _
  | recompute => exact hR.recompute _
  | line => exact hR.setLine _ _
  | vcStart => exact hR.start _
  | vcStop => exact hR.stop _
  | vcDispose => exact hR.disposeClock _
  | transfer => exact hR.transferTrigger _ _
  | setup => exact hR.setupTransaction _ _
  | bulkOut => exact hR.bulkOut _ _
  | bulkIn => exact hR.bulkIn _ _
  | writeData => exact hR.emit _ _
  | subscribe => exact hR.subscribe _ _
  | unsubscribe => exact hR.unsubscribe _ _
  | attach => exact hR.attach _ _ _ (Nat.mod_lt _ (by decide))
  | detach => exact hR.detach _ _
  | command => exact hR.command _ _
  | frameEnd | psmReset | select => exact hR.frame _ _ _
  | report | bankRead | bankWrite => exact hR.report _ _

theorem runHook (h : Hook) (x : HookRun) : R x.state (runHook h x).state :=
  runHook_induct (P := R x.state) (fun c y hy => hR.trans hy (hR.runCall c y)) h x (hR.refl _)

theorem readField (s : State) (f : Field) : R s (readField f s).2 := by
  unfold Machine.readField
  split
  · exact hR.refl s
  · split
    · exact hR.refl s
    · exact hR.runHook _ (.start _ _ s)

theorem readFields (fs : List Field) : ∀ (acc : Nat) (s : State), R s (readFields fs acc s).2 := by
  induction fs with
  | nil => exact fun _ => hR.refl
  | cons f fs ih => exact fun _ s => hR.trans (hR.readField s f) (ih _ _)

theorem bankRead (s : State) (offset : Int) (width : Nat) : R s (bankRead offset width s).2 := by
  unfold Machine.bankRead
  split
  · exact hR.report s _
  · split
    · exact hR.report s _
    · split
      · exact hR.report s _
      · exact hR.trans (hR.trans (hR.setBusy s true) (hR.readFields _ _ _)) (hR.setBusy _ _)

theorem storeFields (W v : Nat) (fs : List Field) : ∀ s : State, R s (storeFields W v fs s) := by
  induction fs with
  | nil => exact hR.refl
  | cons f fs ih =>
    intro s
    refine hR.trans ?_ (ih _)
    unfold storeField
    split
    · exact hR.refl s
    · exact hR.setFld s _ _ (and_mask_lt _ _)
    · exact hR.setFld s _ _ (and_mask_lt _ _)
    · exact hR.clearBits s _ _

theorem callPresent (s : State) (h : Option Hook) (old new : Nat) : R s (callPresent h old new s) := by
  cases h with
  | none => exact hR.refl s
  | some h => exact hR.runHook h (.start old new s)

theorem runHooks (before after : FieldVals) (fs : List Field) : ∀ s : State, R s (runHooks before after fs s) := by
  induction fs with
  | nil => exact hR.refl
  | cons f fs ih =>
    intro s
    refine hR.trans ?_ (ih _)
    unfold fieldHooks
    split
    · exact hR.refl s
    · exact hR.trans (hR.callPresent s _ _ _) (hR.callPresent _ _ _ _)

theorem bankWrite (s : State) (offset : Int) (width value : Nat) : R s (bankWrite offset width value s) := by
  unfold Machine.bankWrite
  split
  · exact hR.report s _
  · split
    · exact hR.report s _
    · split
      · exact hR.report s _
      · exact hR.trans (hR.trans (hR.trans (hR.setBusy s true) (hR.storeFields _ _ _ _)) (hR.runHooks _ _ _ _))
          (hR.setBusy _ _)

/-- The fields at their reset values are fields set one after another (R184). -/
theorem resetFields (m : List Register) : ∀ s : State, R s (s.withVal (resetFields m s.bank.val)) := by
  have hregister (r : Register) (fs : List Field) : ∀ s : State, R s (s.withVal (resetRegister r fs s.bank.val)) := by
    induction fs with
    | nil => exact hR.refl
    | cons f fs ih => exact fun s => hR.trans (hR.setFld s f.name _ (and_mask_lt _ _)) (ih _)
  induction m with
  | nil => exact hR.refl
  | cons r rs ih => exact fun s => hR.trans (hregister r r.fields s) (ih _)

theorem bankReset (s : State) : R s (bankReset s) := hR.trans (hR.resetFields s.par.regmap s) (hR.setBusy _ false)

/-! ### The operations -/

theorem psmByte (s : State) (b : Byte) : R s (psmByte b s).2 := by
  have hafter (u : State) : R u (afterByte u) := by
    unfold afterByte
    split
    · exact hR.frame u _ u.cs
    · exact hR.refl u
  unfold Machine.psmByte
  split
  · exact hR.command s _
  · exact hR.trans (hR.bankWrite s _ _ _) (hafter _)
  · exact hR.trans (hR.bankRead s _ _) (hafter _)

theorem answerByte {s t : State} {r : Byte × State} (hr : R s r.2) (h : answerByte r = .next t) : R s t := by
  obtain rfl := Host.Outcome.next.inj h
  exact hR.trans hr (hR.emit _ _)

theorem peripheralReset (s : State) : R s (peripheralReset s) := by
  have hqueues (u : State) : R u (clearQueue .rcv (clearQueue .snd (clearQueue .sud u))) :=
    hR.trans (hR.trans (hR.clear u .sud) (hR.clear _ .snd)) (hR.clear _ .rcv)
  refine hR.trans (hR.trans (hR.trans (hR.trans ?_ (hqueues _)) (hR.stop _)) (hR.unsubscribeAll _)) (hR.setLine _ _)
  exact hR.trans (hR.bankReset s) (hR.frame _ _ s.cs)

theorem advance (s : State) {dt : Rat} (hdt : 0 ≤ dt) : R s (advance dt s) := by
  unfold Machine.advance
  split
  · exact hR.refl s
  · next hon =>
    rw [Bool.not_eq_true', Bool.not_eq_false] at hon
    obtain ⟨hr, -⟩ := (clockEnabled_iff s).1 hon
    split
    · next h => exact hR.elapse s dt hdt hr h
    · exact hR.trans (hR.clockTick s) (hR.schedule _ _)

theorem callback {s t : State} {p : Pending} {bs : List Byte} (h : callback p bs s = .next t) : R s t := by
  obtain rfl := Host.Outcome.next.inj h
  split
  · exact hR.complete s p bs
  · exact hR.refl s

/-- Every operation but VC.OBTAIN keeps what the updates keep. -/
theorem exec {i : Instr} {s t : State} (h : exec i s = .next t) (hi : ∀ cb r, i ≠ .vcObtain cb r) : R s t := by
  cases i with
  | vcObtain cb r => exact absurd rfl (hi cb r)
  | frSelect | frDeselect =>
    obtain ⟨-, h⟩ := next_of_live h
    obtain rfl := Host.Outcome.next.inj h
    exact hR.frame s _ _
  | frXfer b =>
    obtain ⟨-, h⟩ := next_of_live h
    refine hR.answerByte ?_ h
    split
    · exact hR.psmByte s b
    · exact hR.report s _
  | busRead offset =>
    obtain ⟨-, h⟩ := next_of_live h
    obtain rfl := Host.Outcome.next.inj h
    exact hR.trans (hR.bankRead s _ _) (hR.emit _ _)
  | busWrite offset v =>
    obtain ⟨-, h⟩ := next_of_live h
    obtain rfl := Host.Outcome.next.inj h
    exact hR.bankWrite s _ _ _
  | pAttach a d =>
    obtain ⟨-, h⟩ := next_of_live h
    split at h
    · exact nomatch h
    · next ha =>
      split at h
      · exact nomatch h
      · obtain rfl := Host.Outcome.next.inj h
        exact hR.trans (hR.trans (hR.attach s a d (Nat.not_le.1 ha)) (hR.raw _ _ _)) (hR.raiseFlag _ _)
  | pDetach a =>
    obtain ⟨-, h⟩ := next_of_live h
    split at h
    · obtain rfl := Host.Outcome.next.inj h
      exact hR.trans (hR.detach s a) (hR.raiseFlag _ _)
    · exact nomatch h
  | pReset =>
    obtain ⟨-, h⟩ := next_of_live h
    obtain rfl := Host.Outcome.next.inj h
    exact hR.peripheralReset s
  | pDispose =>
    obtain ⟨-, h⟩ := next_of_live h
    obtain rfl := Host.Outcome.next.inj h
    exact hR.trans (hR.trans (hR.disposeClock s) (hR.unsubscribeAll _)) (hR.finish _)
  | vcTick =>
    obtain rfl := Host.Outcome.next.inj h
    split
    · exact hR.clockTick s
    · exact hR.refl s
  | vcAdvance dt =>
    by_cases hdt : dt < 0
    · exact nomatch (exec_vcAdvance_of_neg hdt).symm.trans h
    · rw [exec_vcAdvance_eq (not_lt.1 hdt)] at h
      obtain rfl := Host.Outcome.next.inj h
      exact hR.advance s (not_lt.1 hdt)
  | cbDataReady | cbSetupResp => exact hR.callback h
  | psmByte b => exact hR.answerByte (hR.psmByte s b) h
  | psmData b =>
    cases hp : s.psm.state with
    | writing w => exact hR.answerByte (hR.psmByte s b) ((exec_psmByte_of_writing hp b).trans h)
    | _ =>
      rw [exec_psmData_of_not_writing (by rw [hp]; exact nofun)] at h
      exact hR.answerByte (hR.report s _) h
  | psmDummy b =>
    cases hp : s.psm.state with
    | reading w => exact hR.answerByte (hR.psmByte s b) ((exec_psmByte_of_reading hp b).trans h)
    | _ =>
      rw [exec_psmDummy_of_not_reading (by rw [hp]; exact nofun)] at h
      exact hR.answerByte (hR.report s _) h
  | cmdRd | cmdWr =>
    obtain rfl := Host.Outcome.next.inj h
    exact hR.command s _
  | xferSetup ep =>
    obtain rfl := Host.Outcome.next.inj h
    exact hR.request s fun d => hR.setupRequest s d ep
  | xferHs =>
    obtain rfl := Host.Outcome.next.inj h
    exact hR.request s fun d => hR.raiseFlag s _
  | xferOut ep =>
    obtain rfl := Host.Outcome.next.inj h
    exact hR.request s fun d => hR.outRequest s d ep
  | xferIn ep =>
    obtain rfl := Host.Outcome.next.inj h
    exact hR.request s fun d => hR.inRequest s d ep
  | sudDecode | fqCount =>
    obtain rfl := Host.Outcome.next.inj h
    exact hR.emit s _
  | psmFrameEnd | psmReset =>
    obtain rfl := Host.Outcome.next.inj h
    exact hR.frame s _ s.cs
  | rbRead =>
    obtain rfl := Host.Outcome.next.inj h
    exact hR.trans (hR.bankRead s _ _) (hR.emit _ _)
  | rbWrite =>
    obtain rfl := Host.Outcome.next.inj h
    exact hR.bankWrite s _ _ _
  | rbReset =>
    obtain rfl := Host.Outcome.next.inj h
    exact hR.bankReset s
  | iaRecompute =>
    obtain rfl := Host.Outcome.next.inj h
    exact hR.recompute s
  | lineSet =>
    obtain rfl := Host.Outcome.next.inj h
    exact hR.setLine s _
  | vcStart =>
    obtain rfl := Host.Outcome.next.inj h
    exact hR.start s
  | vcStop =>
    obtain rfl := Host.Outcome.next.inj h
    exact hR.stop s
  | vcDispose =>
    obtain rfl := Host.Outcome.next.inj h
    exact hR.disposeClock s
  | fqEnq1 | fqEnqN =>
    obtain rfl := Host.Outcome.next.inj h
    exact hR.enqN s _ _
  | fqDeq1 =>
    obtain rfl := Host.Outcome.next.inj h
    exact hR.trans (hR.deq1 s _) (hR.emit _ _)
  | fqDeqN =>
    obtain rfl := Host.Outcome.next.inj h
    exact hR.trans (hR.dequeue s _ _) (hR.emit _ _)
  | fqDeqAll =>
    obtain rfl := Host.Outcome.next.inj h
    exact hR.trans (hR.clear s _) (hR.emit _ _)
  | fqClear =>
    obtain rfl := Host.Outcome.next.inj h
    exact hR.clear s _
  | pFrameTick =>
    obtain rfl := Host.Outcome.next.inj h
    exact hR.raiseFlag s _
  | pXfer =>
    obtain rfl := Host.Outcome.next.inj h
    exact hR.transferTrigger s _
  | pSetup =>
    obtain rfl := Host.Outcome.next.inj h
    exact hR.setupTransaction s _
  | pBulkOut =>
    obtain rfl := Host.Outcome.next.inj h
    exact hR.bulkOut s _
  | pBulkIn =>
    obtain rfl := Host.Outcome.next.inj h
    exact hR.bulkIn s _

end KeptByUpdates

/-! ### The queues' capacities -/

/-- Every queue holds no more than its capacity (R47, R251). -/
def State.fits (s : State) : Prop := ∀ q, withinCap (s.queue q)

/-- The capacities are the same, and queues that fitted them fit them still. -/
structure FitKept (s t : State) : Prop where
  cap : ∀ q, (t.queue q).cap = (s.queue q).cap
  fits : s.fits → t.fits

/-- An update that leaves the queues alone. -/
theorem fitKept_of_queue {s t : State} (h : ∀ q, t.queue q = s.queue q) : FitKept s t where
  cap q := by rw [h]
  fits hs q := by rw [h]; exact hs q

theorem keptByUpdates_fitKept : KeptByUpdates FitKept where
  refl _ := ⟨fun _ => rfl, id⟩
  trans h k := ⟨fun q => (k.cap q).trans (h.cap q), k.fits ∘ h.fits⟩
  enqN s q bs := ⟨fun r => enqN_cap s q r bs, fun hs r => enqN_withinCap s q r bs hs⟩
  dequeue s q n := ⟨fun r => State.setBytes_cap s q r _,
    fun hs r => setBytes_withinCap s q r _ hs (List.length_drop ▸ Nat.sub_le _ _)⟩
  start s := by
    unfold clockStart
    split
    · exact fitKept_of_queue fun _ => rfl
    · exact fitKept_of_queue fun q => by cases q <;> rfl
  report s r := fitKept_of_queue (State.report_queue s r)
  emit s o := fitKept_of_queue (State.emit_queue s o)
  setFld s f v _ := fitKept_of_queue (State.setFld_queue s f v)
  clearBits s f _ := fitKept_of_queue (State.setFld_queue s f _)
  setBusy s b := fitKept_of_queue (State.setBusy_queue s b)
  setLine _ _ := fitKept_of_queue fun q => by cases q <;> rfl
  stop _ := fitKept_of_queue fun q => by cases q <;> rfl
  disposeClock _ := fitKept_of_queue fun q => by cases q <;> rfl
  rewind _ := fitKept_of_queue fun q => by cases q <;> rfl
  elapse _ _ _ _ _ := fitKept_of_queue fun q => by cases q <;> rfl
  subscribe s k := fitKept_of_queue (subscribe_queue s k)
  unsubscribe s p := fitKept_of_queue (unsubscribe_queue s p)
  unsubscribeAll _ := fitKept_of_queue fun q => by cases q <;> rfl
  finish _ := fitKept_of_queue fun q => by cases q <;> rfl
  attach _ _ _ _ := fitKept_of_queue fun q => by cases q <;> rfl
  detach _ _ := fitKept_of_queue fun q => by cases q <;> rfl
  frame _ _ _ := fitKept_of_queue fun q => by cases q <;> rfl
  schedule _ _ := fitKept_of_queue fun q => by cases q <;> rfl

/-- VC.OBTAIN replaces the clock and answers with it (R226, log entry 15). -/
theorem eq_of_exec_vcObtain {cb : Callback} {r : Int} {s t : State} (h : exec (.vcObtain cb r) s = .next t) :
    t = State.result { s with clk := newClock cb r.toNat } (.clock (newClock cb r.toNat)) := by
  by_cases hr : r ≤ 0
  · exact nomatch (exec_vcObtain_of_not_pos cb hr).symm.trans h
  · rw [exec_vcObtain_of_pos cb (Int.not_le.1 hr)] at h
    exact (Host.Outcome.next.inj h).symm

theorem fitKept_exec {i : Instr} {s t : State} (h : exec i s = .next t) : FitKept s t := by
  cases i with
  | vcObtain cb r =>
    rw [eq_of_exec_vcObtain h]
    exact fitKept_of_queue fun q => by cases q <;> rfl
  | _ => exact keptByUpdates_fitKept.exec h nofun

/-- Settles O18: the updates that touch a queue are the enqueue, which trims, and the dequeue, which shortens. -/
theorem queuesStayWithinCapacity : Obligations.QueuesStayWithinCapacity := by
  intro i s t h hs q
  obtain ⟨hcap, hfits⟩ := fitKept_exec h
  exact ⟨hcap q, hfits hs q⟩

/-! ### The history -/

/-- What an operation may not do to the history: it changes no parameter, takes back no report and no output, and gives out
new identifiers alone. -/
structure History (s t : State) : Prop where
  par : t.par = s.par
  log : s.log <+: t.log
  out : s.out <+: t.out
  nextId : s.nextId ≤ t.nextId
  fresh : ∀ p ∈ t.pend, p ∈ s.pend ∨ (s.nextId ≤ p.id ∧ p.id < t.nextId)

/-- The clock keeps its rate and callback, and once disposed it stays so (R226, R230). -/
structure ClockKept (s t : State) : Prop extends History s t where
  rate : t.clk.rate = s.clk.rate
  callback : t.clk.callback = s.clk.callback
  gone : s.clk.disposed = true → t.clk.disposed = true

theorem Grows.clockKept {s t : State} (h : Grows s t) : ClockKept s t :=
  { h with }

theorem ClockKept.refl (s : State) : ClockKept s s := (Grows.refl s).clockKept

theorem ClockKept.trans {s t u : State} (h : ClockKept s t) (k : ClockKept t u) : ClockKept s u where
  par := k.par.trans h.par
  log := h.log.trans k.log
  out := h.out.trans k.out
  nextId := Nat.le_trans h.nextId k.nextId
  fresh p hp := by
    rcases k.fresh p hp with hp | ⟨hle, hlt⟩
    · exact (h.fresh p hp).imp_right fun ⟨hle, hlt⟩ => ⟨hle, Nat.lt_of_lt_of_le hlt k.nextId⟩
    · exact .inr ⟨Nat.le_trans h.nextId hle, hlt⟩
  rate := k.rate.trans h.rate
  callback := k.callback.trans h.callback
  gone := k.gone ∘ h.gone

theorem keptByUpdates_clockKept : KeptByUpdates ClockKept where
  refl := ClockKept.refl
  trans := ClockKept.trans
  report s r := (within_report s r).clockKept
  emit s o := (within_emit s o).clockKept
  setFld s f v _ := (grows_setFld s f v).clockKept
  clearBits s f _ := (grows_setFld s f _).clockKept
  setBusy s b := (grows_setBusy s b).clockKept
  setLine s b := (within_setLine s b).clockKept
  enqN s q bs := (within_enqN s q bs).clockKept
  dequeue s q _ := (within_setBytes s q _).clockKept
  start s := (within_clockStart s).clockKept
  stop s := (within_clockStop s).clockKept
  disposeClock s := { ClockKept.refl s with gone := fun _ => rfl }
  rewind s := { ClockKept.refl s with }
  elapse s _ _ _ _ := { ClockKept.refl s with }
  subscribe s k := (within_subscribe s k).clockKept
  unsubscribe s p := (within_unsubscribe s p).clockKept
  unsubscribeAll s := { ClockKept.refl s with fresh := nofun }
  finish s := { ClockKept.refl s with }
  attach s _ _ _ := { ClockKept.refl s with }
  detach s _ := { ClockKept.refl s with }
  frame s _ _ := { ClockKept.refl s with }
  schedule s _ := { ClockKept.refl s with }

theorem history_exec {i : Instr} {s t : State} (h : exec i s = .next t) : History s t := by
  cases i with
  | vcObtain cb r =>
    rw [eq_of_exec_vcObtain h]
    exact { (ClockKept.refl s).toHistory with out := List.prefix_append _ _ }
  | _ => exact (keptByUpdates_clockKept.exec h nofun).toHistory

/-- Settles O59: every operation but VC.OBTAIN keeps history and clock, and VC.OBTAIN keeps the history. -/
theorem historyOnlyGrows : Obligations.HistoryOnlyGrows := by
  intro i s t h
  obtain ⟨hpar, hlog, hout, hid, hfresh⟩ := history_exec h
  refine ⟨hpar, hlog, hout, hid, fun p hp hnew => (hfresh p hp).resolve_left hnew, fun hi => ?_⟩
  obtain ⟨-, hrate, hcallback, hgone⟩ := keptByUpdates_clockKept.exec h hi
  exact ⟨hrate, hcallback, hgone⟩

end Sys2Proof.Machine

/-! What a transfer trigger and what an agent step can do to the exemplar, said once each; then the statements about the
line (R213, R216), the request flags (R71, R350, R380), the read-write fields (R111), the reports (R183, R285) and the
acknowledge (R110, R394). -/

namespace Sys2Proof.Machine

/-! ### The transfer trigger -/

/-- What a trigger can leave, by the addressed device and the kind of request (R325 to R336). -/
inductive Triggered (s : State) : Option Device → Transfer → State → Prop where
  | absent (k : Transfer) : Triggered s none k (absentDevice s)
  | handshake (d : Device) : Triggered s (some d) .hs (transferDone s)
  | badSetup (d : Device) (ep : BitVec 4) (h : ep ≠ 0) : Triggered s (some d) (.setup ep) (s.report (.setupBadEp ep.toNat))
  | shortSetup (d : Device) (h : s.sud.bytes.length < 8) : Triggered s (some d) (.setup 0)
      { s with sud := { s.sud with bytes := [] }, log := s.log ++ [.setupDecode s.sud.bytes.length] }
  | setup (d : Device) (p : Packet) (h : decodeSetup s.sud.bytes = some p) : Triggered s (some d) (.setup 0)
      { s with
        sud := { s.sud with bytes := [] }
        nextId := s.nextId + 1
        pend := s.pend ++ [⟨s.nextId, .setupResp⟩]
        out := s.out ++ [.handleSetup d p s.nextId] }
  | outZero (d : Device) : Triggered s (some d) (.out 0) (transferDone s)
  | outUnresolved (d : Device) (ep : BitVec 4) (h : ep ≠ 0) (hep : ep.toNat ∉ d.endpoints) :
      Triggered s (some d) (.out ep) (transferDone (s.report (.noEndpoint ep.toNat)))
  | out (d : Device) (ep : BitVec 4) (h : ep ≠ 0) (hep : ep.toNat ∈ d.endpoints) :
      Triggered s (some d) (.out ep) (bulkOut ⟨d.ident, ep.toNat⟩ s)
  | innZero (d : Device) : Triggered s (some d) (.inn 0) (transferDone s)
  | innUnresolved (d : Device) (ep : BitVec 4) (h : ep ≠ 0) (hep : ep.toNat ∉ d.endpoints) :
      Triggered s (some d) (.inn ep) (transferDone (s.report (.noEndpoint ep.toNat)))
  | inn (d : Device) (ep : BitVec 4) (h : ep ≠ 0) (hep : ep.toNat ∈ d.endpoints) : Triggered s (some d) (.inn ep)
      { s with
        nextId := s.nextId + 1
        pend := s.pend ++ [⟨s.nextId, .dataReady⟩]
        out := s.out ++ [.subscribeDataReady ⟨d.ident, ep.toNat⟩ s.nextId] }

theorem triggered_setupRequest (d : Device) (ep : BitVec 4) (s : State) :
    Triggered s (some d) (.setup ep) (setupRequest d ep s) := by
  by_cases h : ep = 0
  · subst h
    rw [setupRequest_zero]
    by_cases hshort : s.sud.bytes.length < 8
    · rw [setupTransaction_of_short d hshort]
      exact .shortSetup d hshort
    · have hp := decodeSetup_of_whole (Nat.not_lt.1 hshort)
      rw [setupTransaction_of_decoded d hp]
      exact .setup d _ hp
  · rw [setupRequest_of_ne_zero h]
    exact .badSetup d ep h

theorem triggered_outRequest (d : Device) (ep : BitVec 4) (s : State) :
    Triggered s (some d) (.out ep) (outRequest d ep s) := by
  by_cases h : ep = 0
  · subst h
    rw [outRequest_zero]
    exact .outZero d
  · by_cases hep : ep.toNat ∈ d.endpoints
    · rw [outRequest_of_mem h hep]
      exact .out d ep h hep
    · rw [outRequest_of_not_mem h hep]
      exact .outUnresolved d ep h hep

theorem triggered_inRequest (d : Device) (ep : BitVec 4) (s : State) :
    Triggered s (some d) (.inn ep) (inRequest d ep s) := by
  by_cases h : ep = 0
  · subst h
    rw [inRequest_zero]
    exact .innZero d
  · by_cases hep : ep.toNat ∈ d.endpoints
    · rw [inRequest_of_mem h hep]
      exact .inn d ep h hep
    · rw [inRequest_of_not_mem h hep]
      exact .innUnresolved d ep h hep

theorem triggered_transferTrigger (v : Byte) (s : State) :
    Triggered s (s.device s.bank.val.perAddr) (decodeTransfer v) (transferTrigger v s) := by
  unfold transferTrigger
  cases h : s.device s.bank.val.perAddr with
  | none =>
    rw [request_of_absent _ h]
    exact .absent _
  | some d =>
    rw [request_of_present _ h]
    cases decodeTransfer v with
    | setup ep => exact triggered_setupRequest d ep s
    | hs => exact .handshake d
    | out ep => exact triggered_outRequest d ep s
    | inn ep => exact triggered_inRequest d ep s

/-! ### The agents' steps -/

/-- The same state but for the frame, the outputs and the schedule. -/
def SameUpToFrame (u t : State) : Prop :=
  ∃ p c o i, t = { u with psm := p, cs := c, out := o, inbox := i }

theorem SameUpToFrame.refl (s : State) : SameUpToFrame s s := ⟨s.psm, s.cs, s.out, s.inbox, rfl⟩

theorem SameUpToFrame.trans {s t u : State} (h : SameUpToFrame s t) (k : SameUpToFrame t u) : SameUpToFrame s u := by
  obtain ⟨_, _, _, _, rfl⟩ := h
  obtain ⟨_, _, _, _, rfl⟩ := k
  exact ⟨_, _, _, _, rfl⟩

theorem sameUpToFrame_result (s : State) (r : Result) : SameUpToFrame s (s.result r) := ⟨s.psm, s.cs, _, s.inbox, rfl⟩

theorem sameUpToFrame_afterByte (s : State) : SameUpToFrame s (afterByte s) := by
  unfold afterByte
  split
  · exact ⟨_, s.cs, s.out, s.inbox, rfl⟩
  · exact .refl s

theorem sameUpToFrame_command (c : Command) (s : State) : SameUpToFrame s (command c s) := by
  cases c <;> exact ⟨_, s.cs, s.out, s.inbox, rfl⟩

/-- What an agent step can leave, but for the frame, the outputs and the schedule, of a state of the exemplar. -/
inductive Taken (s : State) (a : Stimulus) : State → Prop where
  /-- a frame boundary, a command byte, an event that is not enabled -/
  | quiet : Taken s a s
  /-- a byte outside a frame (R304) -/
  | unexpected (b : Byte) : Taken s a (s.report (.unexpectedState b))
  | write (n : Int) (v : Byte) (ha : BusWrites a s n v) (he : s.ended = false) : Taken s a (bankWrite n 8 v.toNat s)
  | read (n : Int) : Taken s a (bankRead n 8 s).2
  /-- a tick, free or at the end of an advance (R231, R233) -/
  | tick (hr : s.clk.running = true) (hd : s.clk.disposed = false)
      (ha : a = .vcTick ∨ ∃ dt, a = .vcAdvance dt ∧ 1 / (s.clk.rate : Rat) ≤ s.clk.elapsed + dt) :
      Taken s a (clockTick s)
  /-- an advance that reaches no tick (R233) -/
  | elapse (dt : Rat) (hdt : 0 ≤ dt) (hr : s.clk.running = true) (hd : s.clk.disposed = false)
      (h : s.clk.elapsed + dt < 1 / (s.clk.rate : Rat)) :
      Taken s a { s with clk := { s.clk with elapsed := s.clk.elapsed + dt } }
  | attach (x : Nat) (d : Device) (ha : a = .pAttach x d) (hx : x < 128) (hf : s.device x = none) : Taken s a
      ((State.withVal { s with dev := keyPut x d (topologyChange s.dev) }
        { s.bank.val with busState := s.par.attachStatus.toNat, condetIrq := 1 }).driven 1)
  | detach (x : Nat) (ha : a = .pDetach x) (ho : s.device x ≠ none) : Taken s a
      ((State.withVal { s with dev := topologyChange (keyDrop x s.dev) } { s.bank.val with condetIrq := 1 }).driven 1)
  | dataReady (n c : Nat) (bs : List Byte) (ha : a = .cbDataReady n c bs) (hp : ⟨n, .dataReady⟩ ∈ s.pend)
      (he : s.ended = false) : Taken s a (complete ⟨n, .dataReady⟩ bs s)
  | setupResp (n : Nat) (bs : List Byte) (ha : a = .cbSetupResp n bs) (hp : ⟨n, .setupResp⟩ ∈ s.pend)
      (he : s.ended = false) : Taken s a (complete ⟨n, .setupResp⟩ bs s)
  | reset (ha : a = .pReset) : Taken s a (peripheralReset s)
  | dispose : Taken s a { clockDispose s with pend := [], ended := true }

/-- A byte in a frame, by the state of the protocol machine (R276). -/
theorem taken_psmByte {s : State} {b : Byte} (he : s.ended = false) (hcs : s.cs = true) :
    ∃ u, Taken s (.frXfer b) u ∧ SameUpToFrame u (psmByte b s).2 := by
  unfold psmByte
  split
  · exact ⟨s, .quiet, sameUpToFrame_command _ s⟩
  · next t ht =>
    have hwrites : BusWrites (.frXfer b) s t.toNat b := .inl ⟨rfl, hcs, t, ht, rfl⟩
    exact ⟨_, .write _ b hwrites he, sameUpToFrame_afterByte _⟩
  · next t ht => exact ⟨_, .read t.toNat, sameUpToFrame_afterByte _⟩

theorem taken_vcAdvance {s : State} {dt : Rat} (hdt : 0 ≤ dt) :
    ∃ u, Taken s (.vcAdvance dt) u ∧ SameUpToFrame u (advance dt s) := by
  cases hr : s.clk.running with
  | false => exact ⟨s, .quiet, by rw [advance_of_not_enabled (.inl hr)]; exact .refl s⟩
  | true =>
    cases hd : s.clk.disposed with
    | true => exact ⟨s, .quiet, by rw [advance_of_not_enabled (.inr hd)]; exact .refl s⟩
    | false =>
      by_cases h : s.clk.elapsed + dt < 1 / (s.clk.rate : Rat)
      · exact ⟨_, .elapse dt hdt hr hd h, by rw [advance_of_before_tick hr hd h]; exact .refl _⟩
      · refine ⟨_, .tick hr hd (.inr ⟨dt, rfl, not_lt.1 h⟩), ?_⟩
        rw [advance_of_tick hr hd (not_lt.1 h)]
        exact ⟨(clockTick s).psm, (clockTick s).cs, (clockTick s).out, _, rfl⟩

/-- What an agent step that is not refused leaves. -/
theorem taken_of_exec {a : Stimulus} {s t : State} (h : exec a.toInstr s = .next t) :
    ∃ u, Taken s a u ∧ SameUpToFrame u t := by
  cases a with
  | frSelect | frDeselect =>
    obtain ⟨-, h⟩ := next_of_live h
    obtain rfl := Host.Outcome.next.inj h
    exact ⟨s, .quiet, _, _, s.out, s.inbox, rfl⟩
  | frXfer b =>
    obtain ⟨he, -⟩ := next_of_live h
    replace h : exec (.frXfer b) s = .next t := h
    cases hcs : s.cs with
    | true =>
      rw [exec_frXfer_of_selected he hcs, exec_psmByte_eq_next] at h
      obtain rfl := Host.Outcome.next.inj h
      obtain ⟨u, hu, hut⟩ := taken_psmByte (b := b) he hcs
      exact ⟨u, hu, hut.trans (sameUpToFrame_result _ _)⟩
    | false =>
      rw [exec_frXfer_of_not_selected he hcs] at h
      obtain rfl := Host.Outcome.next.inj h
      exact ⟨_, .unexpected b, sameUpToFrame_result _ _⟩
  | busRead n =>
    obtain ⟨-, h⟩ := next_of_live h
    obtain rfl := Host.Outcome.next.inj h
    exact ⟨_, .read n, sameUpToFrame_result _ _⟩
  | busWrite n v =>
    obtain ⟨he, h⟩ := next_of_live h
    obtain rfl := Host.Outcome.next.inj h
    exact ⟨_, .write n v (.inr rfl) he, .refl _⟩
  | vcTick =>
    by_cases hr : s.clk.running = true ∧ s.clk.disposed = false
    · obtain rfl := Host.Outcome.next.inj ((exec_vcTick_of_enabled hr.1 hr.2).symm.trans h)
      exact ⟨_, .tick hr.1 hr.2 (.inl rfl), .refl _⟩
    · have hoff : s.clk.running = false ∨ s.clk.disposed = true := by
        rwa [not_and_or, Bool.not_eq_true, Bool.not_eq_false] at hr
      obtain rfl := Host.Outcome.next.inj ((exec_vcTick_of_not_enabled hoff).symm.trans h)
      exact ⟨_, .quiet, .refl _⟩
  | vcAdvance dt =>
    by_cases hdt : dt < 0
    · exact nomatch (exec_vcAdvance_of_neg hdt).symm.trans h
    · obtain rfl := Host.Outcome.next.inj ((exec_vcAdvance_eq (not_lt.1 hdt)).symm.trans h)
      exact taken_vcAdvance (not_lt.1 hdt)
  | pAttach x d =>
    obtain ⟨he, -⟩ := next_of_live h
    by_cases hx : 128 ≤ x
    · exact nomatch (exec_pAttach_of_out_of_range he d hx).symm.trans h
    · by_cases hf : s.device x = none
      · obtain rfl := Host.Outcome.next.inj ((exec_pAttach_of_free he d (Nat.not_le.1 hx) hf).symm.trans h)
        rw [attach_eq]
        exact ⟨_, .attach x d rfl (Nat.not_le.1 hx) hf, .refl _⟩
      · exact nomatch (exec_pAttach_of_occupied he d (Nat.not_le.1 hx) hf).symm.trans h
  | pDetach x =>
    obtain ⟨he, -⟩ := next_of_live h
    by_cases hf : s.device x = none
    · exact nomatch (exec_pDetach_of_free he hf).symm.trans h
    · obtain rfl := Host.Outcome.next.inj ((exec_pDetach_of_occupied he hf).symm.trans h)
      rw [detach_eq]
      exact ⟨_, .detach x rfl hf, .refl _⟩
  | cbDataReady n c bs =>
    obtain rfl := Host.Outcome.next.inj h
    split
    · next hp => exact ⟨_, .dataReady n c bs rfl hp.1 hp.2, .refl _⟩
    · exact ⟨_, .quiet, .refl _⟩
  | cbSetupResp n bs =>
    obtain rfl := Host.Outcome.next.inj h
    split
    · next hp => exact ⟨_, .setupResp n bs rfl hp.1 hp.2, .refl _⟩
    · exact ⟨_, .quiet, .refl _⟩
  | pReset =>
    obtain ⟨-, h⟩ := next_of_live h
    obtain rfl := Host.Outcome.next.inj h
    exact ⟨_, .reset rfl, .refl _⟩
  | pDispose =>
    obtain ⟨-, h⟩ := next_of_live h
    obtain rfl := Host.Outcome.next.inj h
    exact ⟨_, .dispose, .refl _⟩

/-- What a step of the machine leaves: nothing where no agent step is scheduled, or what that agent step leaves. -/
theorem taken_of_step {s t : State} (h : step s = .next t) :
    t = s ∨ ∃ a rest u, Taken { s with inbox := rest } a u ∧ SameUpToFrame u t := by
  cases hin : s.inbox with
  | nil => exact .inl (Host.Outcome.next.inj ((step_of_inbox_nil hin).symm.trans h)).symm
  | cons a rest => exact .inr ⟨a, rest, taken_of_exec ((step_of_inbox_cons hin).symm.trans h)⟩

/-! ### The line -/

/-- The line is at the formula (R216). -/
def State.settled (s : State) : Prop := s.irq = lineFormula s.bank.val

/-- Driving the line settles it (R211). -/
theorem settled_driven (s : State) (n : Nat) : (s.driven n).settled := rfl

theorem Triggered.settled {s t : State} {od : Option Device} {k : Transfer} (h : Triggered s od k t) (hs : s.settled) :
    t.settled := by
  cases h with
  | absent => rw [absentDevice_eq]; exact settled_driven _ _
  | handshake | outZero | outUnresolved | innZero | innUnresolved =>
    rw [transferDone_eq]; exact settled_driven _ _
  | out => rw [bulkOut_eq]; exact settled_driven _ _
  | badSetup | shortSetup | setup | inn => exact hs

theorem settled_enqN {s : State} (hs : s.settled) (q : QueueId) (bs : List Byte) : (enqN q bs s).settled := by
  rw [State.settled, enqN_irq, enqN_bank]
  exact hs

/-- A write either drives the line after its stores, or stores no field of the formula (R59 to R68). -/
theorem Written.settled {s t : State} {n : Int} {v : Nat} (h : Written s v n t) (hs : s.settled) : t.settled := by
  cases h with
  | usbIrq | usbIen | usbCtlFall | cpuCtl | hirq | hien => exact settled_driven _ _
  | sndFifo => exact settled_enqN (s := s.withVal { s.bank.val with sndData := v % 256 }) hs _ _
  | sudFifo => exact settled_enqN (s := s.withVal { s.bank.val with sudData := v % 256 }) hs _ _
  | modeStart =>
    unfold clockStart
    split <;> exact hs
  | hxfr =>
    exact (triggered_transferTrigger _ _).settled (s := s.withVal { s.bank.val with hxfr := v % 256 }) hs
  | _ => exact hs

theorem ReadDone.settled {s t : State} {n : Int} (h : ReadDone s n t) (hs : s.settled) : t.settled := by
  cases h with
  | rcvFifo =>
    rw [State.settled, deq1_irq, deq1_bank]
    exact hs
  | _ => exact hs

theorem Taken.settled {s t : State} {a : Stimulus} (h : Taken s a t) (he : s.exemplar) (hs : s.settled) :
    t.settled := by
  cases h with
  | quiet | unexpected | elapse | dispose => exact hs
  | write n v => exact (he.written_bankWrite n v.toNat).settled hs
  | read n => exact (he.readDone_bankRead n).settled hs
  | tick => rw [clockTick_eq]; exact settled_driven _ _
  | attach | detach => exact settled_driven _ _
  | dataReady | setupResp => rw [complete_eq]; exact settled_driven _ _
  | reset =>
    rw [State.settled, peripheralReset_eq, he.2, resetFields_exemplarMap]
    rfl

/-- Settles O20: every agent step settles the line last, or touches no field of the formula. -/
theorem lineIsAtTheFormulaAfterEveryStep : Obligations.LineIsAtTheFormulaAfterEveryStep := by
  intro s t he hs h
  rcases taken_of_step h with rfl | ⟨a, rest, u, hu, p, c, o, i, rfl⟩
  · exact hs
  · exact hu.settled (s := { s with inbox := rest }) he hs

end Sys2Proof.Machine

/-! Which fields an agent step of the exemplar changes, and why: the statements about the request flags (R71, R350, R380), the
read-write fields (R111) and the acknowledge (R110, R394); then the reports it makes (R183, R285). -/

namespace Sys2Proof.Machine

/-! ### Several fields set -/

/-- Fields set one after another. -/
def FieldVals.sets (b : FieldVals) (l : List (FieldId × Nat)) : FieldVals := l.foldl (fun b e => b.set e.1 e.2) b

theorem FieldVals.get_sets_of_not_mem {f : FieldId} {l : List (FieldId × Nat)} (h : f ∉ l.map (·.1)) :
    ∀ b : FieldVals, (b.sets l).get f = b.get f := by
  induction l with
  | nil => exact fun _ => rfl
  | cons e l ih =>
    intro b
    rw [List.map_cons, List.mem_cons, not_or] at h
    obtain ⟨he, hl⟩ := h
    rw [FieldVals.sets, List.foldl_cons, ← FieldVals.sets, ih hl, FieldVals.get_set_other b he]

/-- The five fields of HIEN set at once are set one after another. -/
theorem sets_hostEnables (b : FieldVals) (rcvDav sndBav condet frame hxfrdn : Nat) :
    { b with rcvDavIe := rcvDav, sndBavIe := sndBav, condetIe := condet, frameIe := frame, hxfrdnIe := hxfrdn } =
      b.sets [(.rcvDavIe, rcvDav), (.sndBavIe, sndBav), (.condetIe, condet), (.frameIe, frame), (.hxfrdnIe, hxfrdn)] :=
  rfl

/-- The five flags of HIRQ set at once are set one after another. -/
theorem sets_hostFlags (b : FieldVals) (rcvDav sndBav condet frame hxfrdn : Nat) :
    { b with rcvDavIrq := rcvDav, sndBavIrq := sndBav, condetIrq := condet, frameIrq := frame, hxfrdnIrq := hxfrdn } =
      b.sets [(.rcvDavIrq, rcvDav), (.sndBavIrq, sndBav), (.condetIrq, condet), (.frameIrq, frame),
        (.hxfrdnIrq, hxfrdn)] :=
  rfl

/-- No flag of HIRQ is above what it was, if none of the values set is (R153). -/
theorem get_hostFlags_le {b : FieldVals} {rcvDav sndBav condet frame hxfrdn : Nat} (hrcv : rcvDav ≤ b.rcvDavIrq)
    (hsnd : sndBav ≤ b.sndBavIrq) (hcon : condet ≤ b.condetIrq) (hframe : frame ≤ b.frameIrq)
    (hdone : hxfrdn ≤ b.hxfrdnIrq) : ∀ f ∈ regHirq.fields.map (·.name), FieldVals.get
      { b with rcvDavIrq := rcvDav, sndBavIrq := sndBav, condetIrq := condet, frameIrq := frame, hxfrdnIrq := hxfrdn } f
        ≤ b.get f :=
  List.forall_mem_cons.2 ⟨hrcv, List.forall_mem_cons.2 ⟨hsnd, List.forall_mem_cons.2 ⟨hcon, List.forall_mem_cons.2
    ⟨hframe, List.forall_mem_cons.2 ⟨hdone, nofun⟩⟩⟩⟩⟩

theorem mem_requestFlags {f : FieldId} : f ∈ requestFlags ↔
    f = .oscOkIrq ∨ f = .rcvDavIrq ∨ f = .sndBavIrq ∨ f = .condetIrq ∨ f = .frameIrq ∨ f = .hxfrdnIrq := by
  simp only [requestFlags, irqPairs, List.map_cons, List.map_nil, List.mem_cons, List.not_mem_nil, or_false]

/-- A field that differs after some fields have been set is one of them. -/
theorem mem_of_fld_ne {s t : State} {f : FieldId} {l : List (FieldId × Nat)} (ht : t.bank.val = s.bank.val.sets l)
    (hf : t.fld f ≠ s.fld f) : f ∈ l.map (·.1) := by
  by_contra hmem
  rw [State.fld_eq, State.fld_eq, ht] at hf
  exact hf (FieldVals.get_sets_of_not_mem hmem _)

/-! ### What a trigger changes -/

section
variable {s t : State} {od : Option Device} {k : Transfer}

/-- A trigger changes at most send-buffer-available and done (R327 to R336). -/
theorem Triggered.mem_of_fld_ne (h : Triggered s od k t) {f : FieldId} (hf : t.fld f ≠ s.fld f) :
    f = .sndBavIrq ∨ f = .hxfrdnIrq := by
  have hdone {u : State} (hu : u.bank = s.bank) (hne : (transferDone u).fld f ≠ s.fld f) : f = .hxfrdnIrq := by
    have hval : (transferDone u).bank.val = s.bank.val.sets [(.hxfrdnIrq, 1)] := by
      rw [transferDone_eq, ← hu]
      rfl
    exact List.mem_singleton.1 (Machine.mem_of_fld_ne hval hne)
  cases h with
  | absent | handshake | outZero | outUnresolved | innZero | innUnresolved => exact .inr (hdone rfl hf)
  | badSetup | shortSetup | setup | inn => exact absurd rfl hf
  | out d ep =>
    rw [bulkOut_eq] at hf
    have hmem := Machine.mem_of_fld_ne
      (l := [(.sndBavIrq, 1), (.hxfrdnIrq, if s.par.bulkOutSetsDone then 1 else s.bank.val.hxfrdnIrq)]) rfl hf
    simpa only [List.map_cons, List.map_nil, List.mem_cons, List.not_mem_nil, or_false] using hmem

/-- Send-buffer-available is set by a bulk OUT alone (R334). -/
theorem Triggered.cause_sndBavIrq (h : Triggered s od k t) (hf : t.fld .sndBavIrq ≠ s.fld .sndBavIrq) :
    ∃ d ep, od = some d ∧ k = .out ep ∧ ep ≠ 0 ∧ ep.toNat ∈ d.endpoints := by
  cases h with
  | out d ep h0 hep => exact ⟨d, ep, rfl, rfl, h0, hep⟩
  | absent => rw [absentDevice_eq] at hf; exact absurd rfl hf
  | handshake | outZero | outUnresolved | innZero | innUnresolved => rw [transferDone_eq] at hf; exact absurd rfl hf
  | badSetup | shortSetup | setup | inn => exact absurd rfl hf

/-- The completions that set done inside a trigger (R327, R329, R332 to R334, R336). -/
theorem Triggered.cause_hxfrdnIrq (h : Triggered s od k t) (hf : t.fld .hxfrdnIrq ≠ s.fld .hxfrdnIrq) :
    od = none ∨ (∃ d, od = some d ∧ k = .hs) ∨
      (∃ d ep, od = some d ∧ k = .inn ep ∧ (ep = 0 ∨ ep.toNat ∉ d.endpoints)) ∨
      ∃ d ep, od = some d ∧ k = .out ep ∧ (ep = 0 ∨ ep.toNat ∉ d.endpoints ∨ s.par.bulkOutSetsDone = true) := by
  cases h with
  | absent => exact .inl rfl
  | handshake d => exact .inr (.inl ⟨d, rfl, rfl⟩)
  | innZero d => exact .inr (.inr (.inl ⟨d, 0, rfl, rfl, .inl rfl⟩))
  | innUnresolved d ep h0 hep => exact .inr (.inr (.inl ⟨d, ep, rfl, rfl, .inr hep⟩))
  | outZero d => exact .inr (.inr (.inr ⟨d, 0, rfl, rfl, .inl rfl⟩))
  | outUnresolved d ep h0 hep => exact .inr (.inr (.inr ⟨d, ep, rfl, rfl, .inr (.inl hep)⟩))
  | out d ep =>
    refine .inr (.inr (.inr ⟨d, ep, rfl, rfl, .inr (.inr ?_)⟩))
    by_contra hno
    rw [bulkOut_eq] at hf
    exact hf (if_neg hno)
  | badSetup | shortSetup | setup | inn => exact absurd rfl hf

end

/-! ### What a write changes -/

/-- Why a bus-side write of `v` to the index `n` changed a field. -/
inductive Change (s : State) (v : Nat) (n : Int) (t : State) (f : FieldId) : Prop where
  /-- a field of the register written; a request flag can only be cleared (R180) -/
  | own (r : Register) (hr : findRegister exemplarMap n = some r) (hf : f ∈ r.fields.map (·.name))
      (hle : f ∈ requestFlags → t.fld f ≤ s.fld f)
  /-- the fall of the chip-reset bit (R61) -/
  | chipReset (hn : n = 15) (hf : f = .oscOkIrq) (h : s.bank.val.chipRes = 1 ∧ v / 32 % 2 = 0)
  /-- the trigger (R67) -/
  | trigger (hn : n = 30) (h : Triggered (s.withVal { s.bank.val with hxfr := v % 256 })
      (s.device s.bank.val.perAddr) (decodeTransfer (BitVec.ofNat 8 v)) t)
      (hf : t.fld f ≠ (s.withVal { s.bank.val with hxfr := v % 256 }).fld f)

section
variable {s t : State} {v : Nat} {n : Int} {f : FieldId}

/-- The stores of a register are to its own fields. -/
theorem change_own {r : Register} {l : List (FieldId × Nat)} (hr : findRegister exemplarMap n = some r)
    (hle : ∀ g ∈ r.fields.map (·.name), g ∈ requestFlags → t.fld g ≤ s.fld g) (ht : t.bank.val = s.bank.val.sets l)
    (hl : l.map (·.1) = r.fields.map (·.name)) (hf : t.fld f ≠ s.fld f) : Change s v n t f :=
  have hmem : f ∈ r.fields.map (·.name) := hl ▸ mem_of_fld_ne ht hf
  .own r hr hmem (hle f hmem)

/-- The registers that hold no request flag. -/
theorem change_plain {r : Register} {l : List (FieldId × Nat)} (hr : findRegister exemplarMap n = some r)
    (hflags : ∀ g ∈ r.fields.map (·.name), g ∉ requestFlags) (ht : t.bank.val = s.bank.val.sets l)
    (hl : l.map (·.1) = r.fields.map (·.name)) (hf : t.fld f ≠ s.fld f) : Change s v n t f :=
  change_own hr (fun g hg h => absurd h (hflags g hg)) ht hl hf

theorem Written.change (h : Written s v n t) (hf : t.fld f ≠ s.fld f) : Change s v n t f := by
  cases h with
  | reentrant | unmapped | rcvFifo | hrsl => exact absurd rfl hf
  | sndFifo =>
    exact change_plain (l := [(.sndData, v % 256)]) findRegister_sndFifo (by decide) (by rw [enq1, enqN_bank]; rfl) rfl hf
  | sudFifo =>
    exact change_plain (l := [(.sudData, v % 256)]) findRegister_sudFifo (by decide) (by rw [enq1, enqN_bank]; rfl) rfl hf
  | sndBc => exact change_plain (l := [(.sndBc, v % 128)]) findRegister_sndBc (by decide) rfl rfl hf
  | usbIen => exact change_plain (l := [(.oscOkIe, v % 2)]) findRegister_usbIen (by decide) rfl rfl hf
  | usbCtl => exact change_plain (l := [(.chipRes, v / 32 % 2)]) findRegister_usbCtl (by decide) rfl rfl hf
  | cpuCtl => exact change_plain (l := [(.ie, v % 2)]) findRegister_cpuCtl (by decide) rfl rfl hf
  | hien =>
    exact change_plain findRegister_hien (by decide) (sets_hostEnables _ _ _ _ _ _) rfl hf
  | modeStart =>
    exact change_plain (l := [(.sofKaEnab, 1)]) findRegister_mode (by decide) (by rw [clockStart_bank]; rfl) rfl hf
  | modeStop => exact change_plain (l := [(.sofKaEnab, 0)]) findRegister_mode (by decide) rfl rfl hf
  | perAddr => exact change_plain (l := [(.perAddr, v % 128)]) findRegister_perAddr (by decide) rfl rfl hf
  | usbIrq =>
    exact change_own (l := [(.oscOkIrq, w1cNew 1 s.bank.val.oscOkIrq (v % 2))]) findRegister_usbIrq
      (List.forall_mem_cons.2 ⟨fun _ => w1cNew_le _ _ _, nofun⟩) rfl rfl hf
  | hirq =>
    have hle := get_hostFlags_le (b := s.bank.val) (w1cNew_le 1 _ (v / 4 % 2)) (w1cNew_le 1 _ (v / 8 % 2))
      (w1cNew_le 1 _ (v / 32 % 2)) (w1cNew_le 1 _ (v / 64 % 2)) (w1cNew_le 1 _ (v / 128 % 2))
    exact change_own findRegister_hirq (fun g hg _ => hle g hg) (sets_hostFlags _ _ _ _ _ _) rfl hf
  | usbCtlFall h =>
    have hmem := mem_of_fld_ne (l := [(.chipRes, 0), (.oscOkIrq, 1)]) rfl hf
    simp only [List.map_cons, List.map_nil, List.mem_cons, List.not_mem_nil, or_false] at hmem
    rcases hmem with rfl | rfl
    · exact .own regUsbCtl findRegister_usbCtl List.mem_cons_self fun h => absurd h (by decide)
    · exact .chipReset rfl rfl h
  | hxfr =>
    by_cases hx : f = .hxfr
    · exact .own regHxfr findRegister_hxfr (hx ▸ List.mem_cons_self) fun h => absurd (hx ▸ h) (by decide)
    · have hstore : (s.withVal { s.bank.val with hxfr := v % 256 }).fld f = s.fld f :=
        FieldVals.get_set_other s.bank.val hx _
      exact .trigger rfl (triggered_transferTrigger _ _) (hstore ▸ hf)

end

/-! ### What an agent step changes -/

/-- The events that set the request flags of the exemplar (R71, R350, R380). -/
inductive Cause (a : Stimulus) (s : State) : FieldId → Prop where
  | frame (hr : s.clk.running = true) (hd : s.clk.disposed = false)
      (ha : a = .vcTick ∨ ∃ dt, a = .vcAdvance dt ∧ 1 / (s.clk.rate : Rat) ≤ s.clk.elapsed + dt) : Cause a s .frameIrq
  | attach (x : Nat) (d : Device) (ha : a = .pAttach x d) (hf : s.device x = none) : Cause a s .condetIrq
  | detach (x : Nat) (ha : a = .pDetach x) (ho : s.device x ≠ none) : Cause a s .condetIrq
  | dataReady (f : FieldId) (n c : Nat) (bs : List Byte) (ha : a = .cbDataReady n c bs) (hp : ⟨n, .dataReady⟩ ∈ s.pend)
      (hf : f = .hxfrdnIrq ∨ f = .rcvDavIrq ∧ bs ≠ []) : Cause a s f
  | setupResp (f : FieldId) (n : Nat) (bs : List Byte) (ha : a = .cbSetupResp n bs) (hp : ⟨n, .setupResp⟩ ∈ s.pend)
      (hf : f = .hxfrdnIrq ∨ f = .rcvDavIrq ∧ bs ≠ []) : Cause a s f
  | chipReset (v : Byte) (ha : BusWrites a s 15 v) (h : s.bank.val.chipRes = 1 ∧ v.toNat / 32 % 2 = 0) :
      Cause a s .oscOkIrq
  | trigger (f : FieldId) (v : Byte) (t : State) (ha : BusWrites a s 30 v)
      (h : Triggered (s.withVal { s.bank.val with hxfr := v.toNat % 256 }) (s.device s.bank.val.perAddr)
        (decodeTransfer v) t)
      (hf : t.fld f ≠ (s.withVal { s.bank.val with hxfr := v.toNat % 256 }).fld f) : Cause a s f

section
variable {s t : State} {a : Stimulus} {f : FieldId}

/-- The fields that a completion changes (R338, R344). -/
theorem mem_of_complete_fld_ne {p : Pending} {bs : List Byte} (hf : (complete p bs s).fld f ≠ s.fld f) :
    f = .hxfrdnIrq ∨ f = .rcvDavIrq ∧ bs ≠ [] := by
  rw [complete_eq, enqN_bank] at hf
  have hmem := mem_of_fld_ne
    (l := [(.rcvDavIrq, if bs = [] then s.bank.val.rcvDavIrq else 1), (.hxfrdnIrq, 1)]) rfl hf
  simp only [List.map_cons, List.map_nil, List.mem_cons, List.not_mem_nil, or_false] at hmem
  rcases hmem with rfl | rfl
  · exact .inr ⟨rfl, fun h => hf (if_pos h)⟩
  · exact .inl rfl

theorem ReadDone.fld {n : Int} (h : ReadDone s n t) : t.fld f = s.fld f := by
  cases h with
  | rcvFifo => rw [State.fld_eq, deq1_bank, State.fld_eq]
  | _ => rfl

/-- Why an agent step changed a field of the exemplar: a bus-side write to the field's own register, a reset, the attach
status, or a cause of R71. -/
theorem Taken.change (h : Taken s a t) (he : s.exemplar) (hf : t.fld f ≠ s.fld f) :
    (∃ n v r, BusWrites a s n v ∧ findRegister exemplarMap n = some r ∧ f ∈ r.fields.map (·.name) ∧
      (f ∈ requestFlags → t.fld f ≤ s.fld f)) ∨
    (a = .pReset ∧ (f ∈ requestFlags → t.fld f ≤ s.fld f)) ∨ f = .busState ∨ Cause a s f := by
  cases h with
  | quiet | unexpected | elapse | dispose => exact absurd rfl hf
  | read n => exact absurd (he.readDone_bankRead n).fld hf
  | write n v ha =>
    cases (he.written_bankWrite n v.toNat).change hf with
    | own r hr hmem hle => exact .inl ⟨n, v, r, ha, hr, hmem, hle⟩
    | chipReset hn hosc h =>
      subst hn hosc
      exact .inr (.inr (.inr (.chipReset v ha h)))
    | trigger hn h hf =>
      subst hn
      rw [BitVec.ofNat_toNat, BitVec.setWidth_eq] at h
      exact .inr (.inr (.inr (.trigger f v _ ha h hf)))
  | tick hr hd ha =>
    rw [clockTick_eq] at hf
    obtain rfl := List.mem_singleton.1 (mem_of_fld_ne (l := [(.frameIrq, 1)]) rfl hf)
    exact .inr (.inr (.inr (.frame hr hd ha)))
  | attach x d ha hx hfree =>
    have hmem := mem_of_fld_ne (l := [(.busState, s.par.attachStatus.toNat), (.condetIrq, 1)]) rfl hf
    simp only [List.map_cons, List.map_nil, List.mem_cons, List.not_mem_nil, or_false] at hmem
    rcases hmem with rfl | rfl
    · exact .inr (.inr (.inl rfl))
    · exact .inr (.inr (.inr (.attach x d ha hfree)))
  | detach x ha ho =>
    obtain rfl := List.mem_singleton.1 (mem_of_fld_ne (l := [(.condetIrq, 1)]) rfl hf)
    exact .inr (.inr (.inr (.detach x ha ho)))
  | dataReady n c bs ha hp => exact .inr (.inr (.inr (.dataReady f n c bs ha hp (mem_of_complete_fld_ne hf))))
  | setupResp n bs ha hp => exact .inr (.inr (.inr (.setupResp f n bs ha hp (mem_of_complete_fld_ne hf))))
  | reset ha =>
    refine .inr (.inl ⟨ha, fun hflag => ?_⟩)
    have hzero : (peripheralReset s).fld f = 0 := by
      rw [peripheralReset_eq, he.2, resetFields_exemplarMap]
      rcases mem_requestFlags.1 hflag with rfl | rfl | rfl | rfl | rfl | rfl
      all_goals rfl
    rw [hzero]
    exact Nat.zero_le _

/-- A clear request flag that an agent step sets was set by one of its causes. -/
theorem cause_of_exec (he : s.exemplar) (h : exec a.toInstr s = .next t) (hflag : f ∈ requestFlags)
    (h0 : s.fld f = 0) (h1 : t.fld f ≠ 0) : Cause a s f := by
  obtain ⟨u, hu, p, c, o, i, rfl⟩ := taken_of_exec h
  have hle : ¬ u.fld f ≤ s.fld f := fun hle => h1 (Nat.le_zero.1 (h0 ▸ hle))
  rcases hu.change he (h0.symm ▸ h1) with ⟨-, -, -, -, -, -, hown⟩ | ⟨-, hreset⟩ | rfl | hcause
  · exact absurd (hown hflag) hle
  · exact absurd (hreset hflag) hle
  · exact absurd hflag (by decide)
  · exact hcause

end

/-! ### The request flags -/

/-- The byte's bit 5 is clear when its part for CHIPRES is 0 (R61). -/
theorem and_0x20_eq_zero {v : Byte} (h : v.toNat / 32 % 2 = 0) : v &&& 0x20 = 0 := by
  have hbit : v.getLsbD 5 = false := by
    rw [BitVec.getLsbD, Nat.testBit_eq_decide_div_mod_eq, h]
    rfl
  rw [and_eq_iff_getLsbD (by decide)]
  simpa [Fin.forall_fin_succ] using hbit

/-- A trigger's request is the operation that the byte written decodes to (R67, R325). -/
theorem triggers_of_busWrites {a : Stimulus} {s : State} {v : Byte} {k : Transfer} (ha : BusWrites a s 30 v)
    (hk : decodeTransfer v = k) : Triggers a s (s.device s.bank.val.perAddr) k.toInstr :=
  ⟨v, ha, rfl, by rw [decode_xfr8_cons, hk]⟩

/-- Settles O21: a flag that was clear has one of the causes, and each flag has its own. -/
theorem requestFlagsAreSetByTheirEventsAlone : Obligations.RequestFlagsAreSetByTheirEventsAlone := by
  intro a s t he h
  refine ⟨fun h0 h1 => ?frame, fun h0 h1 => ?condet, fun h0 h1 => ?rcvDav, fun h0 h1 => ?oscOk, fun h0 h1 => ?sndBav,
    fun h0 h1 => ?hxfrdn⟩
  all_goals have hcause := cause_of_exec he h (mem_requestFlags.2 (by decide)) h0 h1
  case frame =>
    cases hcause with
    | frame hr hd ha => exact ⟨hr, hd, ha⟩
    | dataReady _ _ _ _ _ _ hf | setupResp _ _ _ _ _ hf => simp at hf
    | trigger _ _ _ _ ht hf => exact absurd (ht.mem_of_fld_ne hf) (by decide)
  case condet =>
    cases hcause with
    | attach x d ha hf => exact .inl ⟨x, d, ha, hf⟩
    | detach x ha ho => exact .inr ⟨x, ha, ho⟩
    | dataReady _ _ _ _ _ _ hf | setupResp _ _ _ _ _ hf => simp at hf
    | trigger _ _ _ _ ht hf => exact absurd (ht.mem_of_fld_ne hf) (by decide)
  case rcvDav =>
    cases hcause with
    | dataReady _ n c bs ha hp hf =>
      cases bs with
      | nil => simp at hf
      | cons b bs => exact .inl ⟨n, c, b, bs, ha, hp⟩
    | setupResp _ n bs ha hp hf =>
      cases bs with
      | nil => simp at hf
      | cons b bs => exact .inr ⟨n, b, bs, ha, hp⟩
    | trigger _ _ _ _ ht hf => exact absurd (ht.mem_of_fld_ne hf) (by decide)
  case oscOk =>
    cases hcause with
    | chipReset v ha h => exact ⟨h.1, v, ha, and_0x20_eq_zero h.2⟩
    | dataReady _ _ _ _ _ _ hf | setupResp _ _ _ _ _ hf => simp at hf
    | trigger _ _ _ _ ht hf => exact absurd (ht.mem_of_fld_ne hf) (by decide)
  case sndBav =>
    cases hcause with
    | dataReady _ _ _ _ _ _ hf | setupResp _ _ _ _ _ hf => simp at hf
    | trigger _ v _ ha ht hf =>
      obtain ⟨d, ep, hd, hk, h0, hep⟩ := ht.cause_sndBavIrq hf
      exact ⟨d, ep, hd ▸ triggers_of_busWrites ha hk, h0, hep⟩
  case hxfrdn =>
    cases hcause with
    | dataReady _ n c bs ha hp => exact .inl ⟨n, c, bs, ha, hp⟩
    | setupResp _ n bs ha hp => exact .inr (.inl ⟨n, bs, ha, hp⟩)
    | trigger _ v _ ha ht hf =>
      rcases ht.cause_hxfrdnIrq hf with hd | ⟨d, hd, hk⟩ | ⟨d, ep, hd, hk, h⟩ | ⟨d, ep, hd, hk, h⟩
      · exact .inr (.inr (.inl ⟨_, hd ▸ triggers_of_busWrites ha rfl⟩))
      · exact .inr (.inr (.inr (.inl ⟨d, hd ▸ triggers_of_busWrites ha hk⟩)))
      · exact .inr (.inr (.inr (.inr (.inl ⟨d, ep, hd ▸ triggers_of_busWrites ha hk, h⟩))))
      · exact .inr (.inr (.inr (.inr (.inr ⟨d, ep, hd ▸ triggers_of_busWrites ha hk, h⟩))))

/-! ### The read-write fields -/

/-- No cause of R71 touches a field but a request flag. -/
theorem Cause.mem_requestFlags {a : Stimulus} {s : State} {f : FieldId} (h : Cause a s f) : f ∈ requestFlags := by
  rw [Machine.mem_requestFlags]
  cases h with
  | frame | attach | detach | chipReset => decide
  | dataReady _ _ _ _ _ _ hf | setupResp _ _ _ _ _ hf =>
    rcases hf with rfl | ⟨rfl, -⟩ <;> decide
  | trigger _ _ _ _ ht hf =>
    rcases ht.mem_of_fld_ne hf with rfl | rfl <;> decide

/-- Settles O42: a field that changed was written, reset, or is a request flag or the attach status. -/
theorem readWriteFieldsChangeOnlyByBusWrites : Obligations.ReadWriteFieldsChangeOnlyByBusWrites := by
  intro a s t f he h hne hrw
  obtain ⟨u, hu, p, c, o, i, rfl⟩ := taken_of_exec h
  rcases hu.change he hne with ⟨n, v, r, ha, hr, hmem, -⟩ | ⟨ha, -⟩ | rfl | hcause
  · exact .inl ⟨n, v, r, ha, hr, hmem⟩
  · exact .inr ha
  · exact absurd hrw (by decide)
  · have hdisjoint : ∀ g ∈ requestFlags, g ∉ [FieldId.sndBc, .oscOkIe, .chipRes, .ie, .rcvDavIe, .sndBavIe, .condetIe,
        .frameIe, .hxfrdnIe, .sofKaEnab, .perAddr, .hxfr] := by decide
    exact absurd hrw (hdisjoint f hcause.mem_requestFlags)

/-! ### The reports -/

/-- No breach of the bank's or the decoder's contract (R183, R285). -/
def Report.benign : Report → Bool
  | .reentrant _ | .badWidth _ _ | .decodeError _ => false
  | _ => true

/-- Every report new to the log is benign. -/
def Logged (s t : State) : Prop := ∀ r ∈ t.log, r ∈ s.log ∨ Report.benign r = true

theorem Logged.of_append {s t : State} {rs : List Report} (h : t.log = s.log ++ rs)
    (hrs : ∀ r ∈ rs, Report.benign r = true) : Logged s t := by
  intro r hr
  rw [h, List.mem_append] at hr
  exact hr.imp_right (hrs r)

theorem Logged.of_eq {s t : State} (h : t.log = s.log) : Logged s t := fun _ hr => .inl (h ▸ hr)

theorem logged_report (s : State) {r : Report} (h : Report.benign r = true) : Logged s (s.report r) :=
  .of_append rfl fun _ hr => List.mem_singleton.1 hr ▸ h

theorem logged_enqN (s : State) (q : QueueId) (bs : List Byte) : Logged s (enqN q bs s) := by
  refine .of_append (enqN_log s q bs) ?_
  split
  · exact nofun
  · split
    · exact fun _ hr => List.mem_singleton.1 hr ▸ rfl
    · exact nofun

theorem Triggered.logged {s t : State} {od : Option Device} {k : Transfer} (h : Triggered s od k t) : Logged s t := by
  cases h with
  | absent => rw [absentDevice_eq]; exact logged_report s rfl
  | handshake | outZero | innZero => rw [transferDone_eq]; exact .of_eq rfl
  | outUnresolved | innUnresolved => rw [transferDone_eq]; exact logged_report s rfl
  | badSetup => exact logged_report s rfl
  | shortSetup => exact .of_append rfl fun _ hr => List.mem_singleton.1 hr ▸ rfl
  | setup | inn => exact .of_eq rfl
  | out =>
    rw [bulkOut_eq]
    refine .of_append rfl ?_
    split
    · exact nofun
    · exact fun _ hr => List.mem_singleton.1 hr ▸ rfl

theorem Written.logged {s t : State} {n : Int} {v : Nat} (h : Written s v n t) (hb : s.bank.busy = false) :
    Logged s t := by
  cases h with
  | reentrant _ h => exact nomatch hb.symm.trans h
  | unmapped => exact logged_report s rfl
  | sndFifo => exact logged_enqN (s.withVal { s.bank.val with sndData := v % 256 }) _ _
  | sudFifo => exact logged_enqN (s.withVal { s.bank.val with sudData := v % 256 }) _ _
  | modeStart =>
    unfold clockStart
    split <;> exact .of_eq rfl
  | hxfr => exact (triggered_transferTrigger _ (s.withVal { s.bank.val with hxfr := v % 256 })).logged
  | _ => exact .of_eq rfl

theorem ReadDone.logged {s t : State} {n : Int} (h : ReadDone s n t) (hb : s.bank.busy = false) : Logged s t := by
  cases h with
  | reentrant h => exact nomatch hb.symm.trans h
  | unmapped => exact logged_report s rfl
  | image => exact .of_eq rfl
  | rcvFifo =>
    refine .of_append (deq1_log s .rcv) ?_
    split
    · exact fun _ hr => List.mem_singleton.1 hr ▸ rfl
    · exact nofun

theorem Taken.logged {s t : State} {a : Stimulus} (h : Taken s a t) (hs : s.ready) : Logged s t := by
  obtain ⟨he, hb⟩ := hs
  cases h with
  | quiet | elapse | dispose | attach | detach | reset => exact .of_eq rfl
  | unexpected => exact logged_report s rfl
  | write n v => exact (he.written_bankWrite n v.toNat).logged hb
  | read n => exact (he.readDone_bankRead n).logged hb
  | tick => rw [clockTick_eq]; exact .of_eq rfl
  | dataReady | setupResp => rw [complete_eq]; exact logged_enqN _ _ _

/-- Settles O43: every report that an agent step of the exemplar makes is benign. -/
theorem exemplarNeverReportsContractBreaches : Obligations.ExemplarNeverReportsContractBreaches := by
  intro s t r hs h hr hnew
  have hbenign : Report.benign r = true := by
    rcases taken_of_step h with rfl | ⟨a, rest, u, hu, p, c, o, i, rfl⟩
    · exact absurd hr hnew
    · exact (hu.logged (s := { s with inbox := rest }) hs r hr).resolve_left hnew
  refine ⟨?_, ?_, ?_⟩
  · rintro o rfl
    exact nomatch hbenign
  · rintro o w rfl
    exact nomatch hbenign
  · rintro b rfl
    exact nomatch hbenign

/-! ### The acknowledge -/

/-- A flag written back with the value read is cleared. -/
theorem w1cNew_same {x : Nat} (hx : x < 2) : w1cNew 1 x x = 0 := by
  rw [w1cNew_bit x x hx hx]
  split <;> omega

/-- The flags in the image of HIRQ, place by place (R63). -/
theorem hirqImage_bits {b : FieldVals} {v : Nat} (hv : v = registerImage b 25) (hrcv : b.rcvDavIrq < 2)
    (hsnd : b.sndBavIrq < 2) (hcon : b.condetIrq < 2) (hframe : b.frameIrq < 2) (hdone : b.hxfrdnIrq < 2) :
    v / 4 % 2 = b.rcvDavIrq ∧ v / 8 % 2 = b.sndBavIrq ∧ v / 32 % 2 = b.condetIrq ∧ v / 64 % 2 = b.frameIrq ∧
      v / 128 % 2 = b.hxfrdnIrq := by
  have himage : v = 4 * b.rcvDavIrq + 8 * b.sndBavIrq + 32 * b.condetIrq + 64 * b.frameIrq + 128 * b.hxfrdnIrq := hv
  omega

/-- A bus-side write to HIRQ (R63, R186). -/
theorem State.ready.exec_busWrite_hirq {s : State} (hs : s.ready) (he : s.ended = false) (v : Byte) :
    exec (.busWrite 25 v) s = .next ((s.withVal { s.bank.val with
      rcvDavIrq := w1cNew 1 s.bank.val.rcvDavIrq (v.toNat / 4 % 2)
      sndBavIrq := w1cNew 1 s.bank.val.sndBavIrq (v.toNat / 8 % 2)
      condetIrq := w1cNew 1 s.bank.val.condetIrq (v.toNat / 32 % 2)
      frameIrq := w1cNew 1 s.bank.val.frameIrq (v.toNat / 64 % 2)
      hxfrdnIrq := w1cNew 1 s.bank.val.hxfrdnIrq (v.toNat / 128 % 2) }).driven 5) := by
  rw [exec_busWrite_eq 25 v he, ← exec_rbWrite_eq, hs.exec_rbWrite_declared findRegister_hirq, hs.writeRegister_hirq]

/-- Settles O22: the read leaves the flags alone, the tick sets the frame flag, and the write clears what was read as 1. -/
theorem writeBackAcknowledgesOnlyWhatWasRead : Obligations.WriteBackAcknowledgesOnlyWhatWasRead := by
  intro s s1 s2 v hs hb he hd hr hv h1 h2
  rw [exec_busRead_eq 25 he, hs.bankRead_image hb findRegister_hirq (by decide), ← hv, BitVec.ofNat_toNat,
    BitVec.setWidth_eq] at h1
  obtain rfl : s.result (.byte v) = s1 := Host.Outcome.next.inj h1
  rw [exec_vcTick_of_enabled (s := s.result (.byte v)) hr hd] at h2
  obtain rfl := Host.Outcome.next.inj h2
  have htick := clockTick_eq (s.result (.byte v))
  have hready : (clockTick (s.result (.byte v))).ready := by rw [htick]; exact hs
  have hended : (clockTick (s.result (.byte v))).ended = false := by rw [htick]; exact he
  have hval : (clockTick (s.result (.byte v))).bank.val = { s.bank.val with frameIrq := 1 } := by rw [htick]; rfl
  obtain ⟨hrcv, hsnd, hcon, hframe, hdone⟩ :=
    hirqImage_bits hv (hb .rcvDavIrq) (hb .sndBavIrq) (hb .condetIrq) (hb .frameIrq) (hb .hxfrdnIrq)
  refine ⟨rfl, _, hready.exec_busWrite_hirq hended v, ?_⟩
  rw [hval, hrcv, hsnd, hcon, hframe, hdone]
  refine ⟨?frame, w1cNew_same (hb .rcvDavIrq), w1cNew_same (hb .sndBavIrq), w1cNew_same (hb .condetIrq),
    w1cNew_same (hb .hxfrdnIrq)⟩
  change w1cNew 1 1 s.bank.val.frameIrq = if s.bank.val.frameIrq = 0 then 1 else 0
  have hlt : s.bank.val.frameIrq < 2 := hb .frameIrq
  rw [w1cNew_bit 1 _ (by decide) hlt]
  split <;> split <;> omega

end Sys2Proof.Machine

/-! The invariant of the exemplar under every step: the parts that every operation of every declaration keeps, by the
induction over updates, then the parts that the exemplar's agent steps keep, and the statement. -/

namespace Sys2Proof.Machine

/-! ### The parts that every operation keeps -/

/-- The parts of the invariant that do not look at the declaration, the line or the disposal. -/
structure Sound (s : State) : Prop where
  bounded : s.bounded
  pendOrder : s.pend.Pairwise fun p q => p.id < q.id
  pendOld : ∀ p ∈ s.pend, p.id < s.nextId
  memory : Memory.wf s = true
  addresses : ∀ e ∈ s.dev, e.1 < 128
  clock : ClockInv s.clk

/-- The parts look at the fields, the subscriptions, the topology and the clock alone. -/
theorem Sound.congr {s t : State} (hs : Sound s) (hbank : t.bank = s.bank) (hpend : t.pend = s.pend)
    (hid : t.nextId = s.nextId) (hdev : t.dev = s.dev) (hclk : t.clk = s.clk) : Sound t where
  bounded f := by rw [State.fld_eq, hbank]; exact hs.bounded f
  pendOrder := hpend ▸ hs.pendOrder
  pendOld := by rw [hpend, hid]; exact hs.pendOld
  memory := (memory_wf_congr hdev (by rw [hbank])).trans hs.memory
  addresses := hdev ▸ hs.addresses
  clock := hclk ▸ hs.clock

theorem bounded_setFld {s : State} (hs : s.bounded) {f : FieldId} {v : Nat} (hv : v < 2 ^ f.width) :
    (s.setFld f v).bounded := by
  intro g
  by_cases hg : g = f
  · subst hg
    rw [State.fld_setFld_self]
    exact hv
  · rw [State.fld_setFld_other s hg]
    exact hs g

theorem Sound.setFld {s : State} (hs : Sound s) {f : FieldId} {v : Nat} (hv : v < 2 ^ f.width) :
    Sound (s.setFld f v) :=
  { hs with
    bounded := bounded_setFld hs.bounded hv
    memory := memory_wf_setFld hs.memory f v }

theorem sound_subscribe {s : State} (hs : Sound s) (k : SubKind) : Sound (subscribe k s).2 :=
  { hs with
    pendOrder := by
      rw [subscribe_pend, List.pairwise_append]
      refine ⟨hs.pendOrder, List.pairwise_singleton _ _, fun p hp q hq => ?_⟩
      obtain rfl := List.mem_singleton.1 hq
      exact hs.pendOld p hp
    pendOld := by
      intro p hp
      rw [subscribe_pend, List.mem_append, List.mem_singleton] at hp
      rw [subscribe_nextId]
      rcases hp with hp | rfl
      · exact Nat.lt_succ_of_lt (hs.pendOld p hp)
      · exact Nat.lt_succ_self _ }

theorem sound_unsubscribe {s : State} (hs : Sound s) (p : Pending) : Sound (unsubscribe p s) :=
  { hs with
    pendOrder := hs.pendOrder.filter _
    pendOld := fun q hq => hs.pendOld q (List.mem_of_mem_filter hq) }

theorem address_of_mem_topologyChange {m : List (Nat × Device)} (hm : ∀ e ∈ m, e.1 < 128) :
    ∀ e ∈ topologyChange m, e.1 < 128 := by
  intro e he
  obtain ⟨e', he', rfl⟩ := List.mem_map.1 he
  exact hm e' he'

theorem sound_attach {s : State} (hs : Sound s) {a : Nat} (ha : a < 128) (d : Device) : Sound (attachDevice a d s) :=
  { hs with
    memory := memory_wf_attach hs.memory a d
    addresses := by
      intro e he
      rcases mem_keyPut he with rfl | he
      · exact ha
      · exact address_of_mem_topologyChange hs.addresses e he }

theorem sound_detach {s : State} (hs : Sound s) (a : Nat) : Sound (detachDevice a s) :=
  { hs with
    memory := memory_wf_detach hs.memory a
    addresses := address_of_mem_topologyChange fun e he => hs.addresses e (List.mem_of_mem_filter he) }

/-- A period has a positive length (R233). -/
theorem ClockInv.period_pos {c : Clock} (hc : ClockInv c) : 0 < 1 / (c.rate : Rat) :=
  one_div_pos.2 (Nat.cast_pos.2 hc.rate)

/-- The phase of a clock set to 0 is inside its period, whether the clock runs or not. -/
theorem ClockInv.rewind {c : Clock} (hc : ClockInv c) {running disposed : Bool} (h : disposed = true → running = false) :
    ClockInv { c with running := running, disposed := disposed, elapsed := 0 } where
  rate := hc.rate
  phase := ⟨le_rfl, hc.period_pos⟩
  stopped _ := rfl
  disposed := h

theorem sound_clockStart {s : State} (hs : Sound s) : Sound (clockStart s) := by
  rw [clockStart_eq]
  split
  · exact hs
  · next h =>
    rw [not_or, Bool.not_eq_true] at h
    exact { hs with clock := hs.clock.rewind fun hd => Bool.noConfusion (h.1.symm.trans hd) }

theorem keptByUpdates_sound : KeptByUpdates fun s t => Sound s → Sound t where
  refl _ := id
  trans h k := k ∘ h
  report _ _ hs := { hs with }
  emit _ _ hs := { hs with }
  setFld _ _ _ hv hs := hs.setFld hv
  clearBits _ f _ hs := hs.setFld (Nat.lt_of_le_of_lt (w1cNew_le _ _ _) (hs.bounded f))
  setBusy _ _ hs := { hs with }
  setLine _ _ hs := { hs with }
  enqN s q bs hs := hs.congr (enqN_bank s q bs) (enqN_pend s q bs) (enqN_nextId s q bs) (enqN_dev s q bs)
    (enqN_clk s q bs)
  dequeue s q _ hs := hs.congr (State.setBytes_bank s q _) (State.setBytes_pend s q _) (State.setBytes_nextId s q _)
    (State.setBytes_dev s q _) (State.setBytes_clk s q _)
  start _ hs := sound_clockStart hs
  stop _ hs := { hs with clock := hs.clock.rewind fun _ => rfl }
  disposeClock _ hs := { hs with clock := hs.clock.rewind fun _ => rfl }
  rewind _ hs := { hs with clock := hs.clock.rewind hs.clock.disposed }
  elapse _ _ hdt hr h hs := { hs with clock := { hs.clock with
    phase := ⟨add_nonneg hs.clock.phase.1 hdt, h⟩
    stopped := fun hoff => Bool.noConfusion (hoff.symm.trans hr) } }
  subscribe _ k hs := sound_subscribe hs k
  unsubscribe _ p hs := sound_unsubscribe hs p
  unsubscribeAll _ hs := { hs with pendOrder := .nil, pendOld := nofun }
  finish _ hs := { hs with }
  attach _ _ d ha hs := sound_attach hs ha d
  detach _ a hs := sound_detach hs a
  frame _ _ _ hs := { hs with }
  schedule _ _ hs := { hs with }

/-! ### The parts that the exemplar's agent steps keep -/

/-- What binds the exemplar's guard, clock and subscriptions together between operations: the guard is clear, the clock is
disposed with the peripheral and runs exactly when its enable bit is set, and nothing is pending after disposal (R41, R65,
R230, R422). -/
structure Tied (s : State) : Prop where
  busy : s.bank.busy = false
  disposal : s.clk.disposed = s.ended
  pendLive : s.ended = true → s.pend = []
  enabled : s.clk.disposed = false → (s.clk.running = true ↔ s.bank.val.sofKaEnab = 1)

/-- A state with the same clock and clock enable, on a peripheral that has not ended. -/
theorem Tied.of_live {s t : State} (hs : Tied s) (he : s.ended = false) (hended : t.ended = s.ended)
    (hbusy : t.bank.busy = s.bank.busy) (hclk : t.clk = s.clk)
    (hsof : t.bank.val.sofKaEnab = s.bank.val.sofKaEnab) : Tied t where
  busy := hbusy.trans hs.busy
  disposal := by rw [hclk, hended]; exact hs.disposal
  pendLive h := Bool.noConfusion ((hended.trans he).symm.trans h)
  enabled := by rw [hclk, hsof]; exact hs.enabled

theorem Triggered.clk {s t : State} {od : Option Device} {k : Transfer} (h : Triggered s od k t) : t.clk = s.clk := by
  cases h with
  | absent => rw [absentDevice_eq]; rfl
  | handshake | outZero | outUnresolved | innZero | innUnresolved => rw [transferDone_eq]; rfl
  | out => rw [bulkOut_eq]; rfl
  | badSetup | shortSetup | setup | inn => rfl

theorem Triggered.sofKaEnab {s t : State} {od : Option Device} {k : Transfer} (h : Triggered s od k t) :
    t.bank.val.sofKaEnab = s.bank.val.sofKaEnab := by
  by_contra hne
  exact absurd (h.mem_of_fld_ne (f := .sofKaEnab) hne) (by decide)

theorem tied_enqN {s : State} (hs : Tied s) (he : s.ended = false) (q : QueueId) (bs : List Byte) :
    Tied (enqN q bs s) :=
  hs.of_live he (within_enqN s q bs).ended (by rw [enqN_bank]) (enqN_clk s q bs) (by rw [enqN_bank])

theorem Written.tied {s t : State} {n : Int} {v : Nat} (h : Written s v n t) (he : s.ended = false) (hs : Tied s) :
    Tied t := by
  have hstart {b : FieldVals} (hb : b.sofKaEnab = 1) : Tied (clockStart (s.withVal b)) := by
    rw [clockStart_eq]
    split
    · next h =>
      have hnd : s.clk.disposed = false := hs.disposal.trans he
      have hr : s.clk.running = true := h.resolve_left fun hd => Bool.noConfusion (hnd.symm.trans hd)
      exact { hs with enabled := fun _ => iff_of_true hr hb }
    · exact { hs with enabled := fun _ => iff_of_true rfl hb }
  cases h with
  | sndFifo => exact tied_enqN (s := s.withVal { s.bank.val with sndData := v % 256 }) { hs with } he _ _
  | sudFifo => exact tied_enqN (s := s.withVal { s.bank.val with sudData := v % 256 }) { hs with } he _ _
  | hxfr =>
    have hw := within_transferTrigger (BitVec.ofNat 8 v) (s.withVal { s.bank.val with hxfr := v % 256 })
    have ht := triggered_transferTrigger (BitVec.ofNat 8 v) (s.withVal { s.bank.val with hxfr := v % 256 })
    exact hs.of_live he hw.ended hw.busy ht.clk ht.sofKaEnab
  | modeStart => exact hstart rfl
  | modeStop => exact { hs with enabled := fun _ => ⟨nofun, nofun⟩ }
  | _ => exact { hs with }

theorem ReadDone.tied {s t : State} {n : Int} (h : ReadDone s n t) (hs : Tied s) : Tied t := by
  cases h with
  | rcvFifo =>
    have hbank := deq1_bank s .rcv
    have hclk := deq1_clk s .rcv
    have hpend := deq1_pend s .rcv
    have hended := (within_deq1 s .rcv).ended
    constructor
    · rw [hbank]; exact hs.busy
    · rw [hclk, hended]; exact hs.disposal
    · rw [hended, hpend]; exact hs.pendLive
    · rw [hclk, hbank]; exact hs.enabled
  | _ => exact { hs with }

theorem tied_complete {s : State} (hs : Tied s) (he : s.ended = false) (p : Pending) (bs : List Byte) :
    Tied (complete p bs s) := by
  have hw := within_complete p bs s
  refine hs.of_live he hw.ended hw.busy ?_ ?_
  · rw [complete_eq, State.driven_clk, State.withVal_clk, enqN_clk]
    rfl
  · rw [complete_eq, enqN_bank]
    rfl

theorem Taken.tied {s t : State} {a : Stimulus} (h : Taken s a t) (he : s.exemplar) (hs : Tied s) : Tied t := by
  cases h with
  | quiet => exact hs
  | unexpected | elapse | attach | detach => exact { hs with }
  | write n v _ hlive => exact (he.written_bankWrite n v.toNat).tied hlive hs
  | read n => exact (he.readDone_bankRead n).tied hs
  | tick =>
    rw [clockTick_eq]
    exact { hs with }
  | dataReady n c bs _ _ hlive => exact tied_complete hs hlive _ bs
  | setupResp n bs _ _ hlive => exact tied_complete hs hlive _ bs
  | reset =>
    rw [peripheralReset_eq, he.2, resetFields_exemplarMap]
    exact { hs with busy := rfl, pendLive := fun _ => rfl, enabled := fun _ => ⟨nofun, nofun⟩ }
  | dispose => exact { hs with disposal := rfl, pendLive := fun _ => rfl, enabled := nofun }

/-! ### The invariant -/

/-- The invariant by its parts. -/
theorem inv_iff {s : State} : Inv s ↔ s.exemplar ∧ s.settled ∧ Sound s ∧ Tied s ∧ s.fits ∧
    s.sud.cap = some 8 ∧ s.snd.cap = some 64 := by
  constructor
  · intro h
    obtain ⟨hexemplar, hbusy⟩ := h.ready
    obtain ⟨hsud, hsudLe⟩ := h.sudCap
    obtain ⟨hsnd, hsndLe⟩ := h.sndCap
    refine ⟨hexemplar, h.line, { h with }, { h with busy := hbusy }, fun q c hc => ?_, hsud, hsnd⟩
    cases q with
    | sud => exact Option.some.inj (hsud.symm.trans hc) ▸ hsudLe
    | snd => exact Option.some.inj (hsnd.symm.trans hc) ▸ hsndLe
    | rcv => exact h.rcvCap c hc
  · rintro ⟨hexemplar, hline, hsound, htied, hfits, hsud, hsnd⟩
    exact { hsound, htied with
      ready := ⟨hexemplar, htied.busy⟩
      line := hline
      sudCap := ⟨hsud, hfits .sud 8 hsud⟩
      sndCap := ⟨hsnd, hfits .snd 64 hsnd⟩
      rcvCap := fun c hc => hfits .rcv c hc }

/-- An agent step keeps the invariant, part by part. -/
theorem inv_of_exec {a : Stimulus} {s t : State} (hs : Inv s) (h : exec a.toInstr s = .next t) : Inv t := by
  obtain ⟨hexemplar, hsettled, hsound, htied, hfits, hsud, hsnd⟩ := inv_iff.1 hs
  obtain ⟨hcap, hfit⟩ := fitKept_exec h
  have hagent : ∀ cb r, a.toInstr ≠ .vcObtain cb r := by cases a <;> exact nofun
  have hpar := (history_exec h).par
  have hsound' := keptByUpdates_sound.exec h hagent hsound
  obtain ⟨u, hu, p, c, o, i, rfl⟩ := taken_of_exec h
  refine inv_iff.2 ⟨?_, hu.settled hexemplar hsettled, hsound', { hu.tied hexemplar htied with }, hfit hfits,
    (hcap .sud).trans hsud, (hcap .snd).trans hsnd⟩
  rw [State.exemplar, hpar]
  exact hexemplar

/-- Settles O58: a step waits, or takes an agent step. -/
theorem everyStepKeepsTheInvariant : Obligations.EveryStepKeepsTheInvariant := by
  intro s t hs h
  cases hin : s.inbox with
  | nil =>
    rw [step_of_inbox_nil hin] at h
    exact Host.Outcome.next.inj h ▸ hs
  | cons a rest =>
    rw [step_of_inbox_cons hin] at h
    exact inv_of_exec (s := { s with inbox := rest }) { hs with } h

end Sys2Proof.Machine

/-! The log, the outputs and the last decoded target influence nothing (R45, R53): every operation takes states that differ in
them alone to states that do, and answers alike; the hooks of a declaration cannot see them (log entry 11). -/

namespace Sys2Proof.Machine

/-- The two states differ in the log, the outputs and the last decoded target alone. -/
def Alike (s s' : State) : Prop := s.visible = s'.visible

/-- The second state is the first with another log, other outputs and another last target. -/
theorem Alike.elim {s s' : State} (h : Alike s s') :
    ∃ l o x, s' = { s with log := l, out := o, psm := { s.psm with last := x } } := by
  refine ⟨s'.log, s'.out, s'.psm.last, ?_⟩
  obtain ⟨par, bank, ⟨psm, last⟩, cs, sud, snd, rcv, clk, irq, pend, nextId, dev, log, ended, out, inbox⟩ := s
  obtain ⟨par', bank', ⟨psm', last'⟩, cs', sud', snd', rcv', clk', irq', pend', nextId', dev', log', ended', out',
    inbox'⟩ := s'
  simp only [Alike, State.visible, State.mk.injEq, Psm.mk.injEq] at h
  obtain ⟨rfl, rfl, ⟨rfl, -⟩, rfl, rfl, rfl, rfl, rfl, rfl, rfl, rfl, rfl, -, rfl, -, rfl⟩ := h
  rfl

section
variable {s s' : State} (h : Alike s s')
include h

/-! ### The shared operations -/

theorem Alike.report (r r' : Report) : Alike (s.report r) (s'.report r') := by
  obtain ⟨l, o, x, rfl⟩ := h.elim
  rfl

theorem Alike.emit (o o' : Output) : Alike (s.emit o) (s'.emit o') := by
  obtain ⟨l, o, x, rfl⟩ := h.elim
  rfl

theorem Alike.setFld (f : FieldId) (v : Nat) : Alike (s.setFld f v) (s'.setFld f v) := by
  obtain ⟨l, o, x, rfl⟩ := h.elim
  rfl

theorem Alike.setBusy (b : Bool) : Alike (s.setBusy b) (s'.setBusy b) := by
  obtain ⟨l, o, x, rfl⟩ := h.elim
  rfl

theorem Alike.setLine (b : Bool) : Alike (setLine b s) (setLine b s') := by
  obtain ⟨l, o, x, rfl⟩ := h.elim
  rfl

theorem Alike.recompute : Alike (recompute s) (recompute s') := by
  obtain ⟨l, o, x, rfl⟩ := h.elim
  rfl

theorem Alike.raiseFlag (f : FieldId) : Alike (raiseFlag f s) (raiseFlag f s') := (h.setFld f _).recompute

theorem Alike.queue (q : QueueId) : s'.queue q = s.queue q := by
  obtain ⟨l, o, x, rfl⟩ := h.elim
  cases q <;> rfl

theorem Alike.setBytes (q : QueueId) (bs : List Byte) : Alike (s.setBytes q bs) (s'.setBytes q bs) := by
  obtain ⟨l, o, x, rfl⟩ := h.elim
  cases q <;> rfl

theorem Alike.enqN (q : QueueId) (bs : List Byte) : Alike (enqN q bs s) (enqN q bs s') := by
  simp only [Machine.enqN, h.queue]
  split
  · exact h.setBytes q _
  · split
    · exact (h.setBytes q _).report _ _
    · exact h.setBytes q _

theorem Alike.deq1 (q : QueueId) : (deq1 q s).1 = (deq1 q s').1 ∧ Alike (deq1 q s).2 (deq1 q s').2 := by
  simp only [Machine.deq1, h.queue]
  split
  · exact ⟨rfl, h.report _ _⟩
  · exact ⟨rfl, h.setBytes q _⟩

theorem Alike.clockStart : Alike (clockStart s) (clockStart s') := by
  obtain ⟨l, o, x, rfl⟩ := h.elim
  rw [clockStart_eq, clockStart_eq]
  dsimp only
  split <;> rfl

theorem Alike.frameEnd : Alike (frameEnd s) (frameEnd s') := by
  obtain ⟨l, o, x, rfl⟩ := h.elim
  rfl

theorem Alike.psmReset : Alike (psmReset s) (psmReset s') := by
  obtain ⟨l, o, x, rfl⟩ := h.elim
  rfl

theorem Alike.bankReset : Alike (bankReset s) (bankReset s') := by
  obtain ⟨l, o, x, rfl⟩ := h.elim
  rfl

theorem Alike.clockStop : Alike (clockStop s) (clockStop s') := by
  obtain ⟨l, o, x, rfl⟩ := h.elim
  rfl

theorem Alike.clockDispose : Alike (clockDispose s) (clockDispose s') := by
  obtain ⟨l, o, x, rfl⟩ := h.elim
  rfl

theorem Alike.setCs (b : Bool) : Alike (s.setCs b) (s'.setCs b) := by
  obtain ⟨l, o, x, rfl⟩ := h.elim
  rfl

theorem Alike.clockTick : Alike (clockTick s) (clockTick s') := by
  obtain ⟨l, o, x, rfl⟩ := h.elim
  rw [clockTick_eq, clockTick_eq]
  rfl

theorem Alike.subscribe (k : SubKind) : Alike (subscribe k s).2 (subscribe k s').2 := by
  obtain ⟨l, o, x, rfl⟩ := h.elim
  rfl

theorem Alike.unsubscribe (p : Pending) : Alike (unsubscribe p s) (unsubscribe p s') := by
  obtain ⟨l, o, x, rfl⟩ := h.elim
  rfl

theorem Alike.setupTransaction (d : Device) : Alike (setupTransaction d s) (setupTransaction d s') := by
  have hbytes : (deqAll .sud s').1 = (deqAll .sud s).1 := congrArg Queue.bytes (h.queue .sud)
  simp only [Machine.setupTransaction, hbytes]
  split
  · exact (h.setBytes .sud []).report _ _
  · exact ((h.setBytes .sud []).subscribe _).emit _ _

theorem Alike.bulkOut (e : Endpoint) : Alike (bulkOut e s) (bulkOut e s') := by
  obtain ⟨l, o, x, rfl⟩ := h.elim
  rw [bulkOut_eq, bulkOut_eq]
  rfl

theorem Alike.bulkIn (eo : Option Endpoint) : Alike (bulkIn eo s) (bulkIn eo s') := by
  cases eo with
  | none => exact h.raiseFlag _
  | some e => exact (h.subscribe _).emit _ _

theorem Alike.setupRequest (d : Device) (ep : BitVec 4) : Alike (setupRequest d ep s) (setupRequest d ep s') := by
  unfold Machine.setupRequest
  split
  · exact h.report _ _
  · exact h.setupTransaction d

theorem Alike.outRequest (d : Device) (ep : BitVec 4) : Alike (outRequest d ep s) (outRequest d ep s') := by
  unfold Machine.outRequest
  split
  · exact h.raiseFlag _
  · split
    · exact (h.report _ _).raiseFlag _
    · exact h.bulkOut _

theorem Alike.inRequest (d : Device) (ep : BitVec 4) : Alike (inRequest d ep s) (inRequest d ep s') := by
  unfold Machine.inRequest
  split
  · exact h.bulkIn none
  · split
    · exact (h.report _ _).bulkIn none
    · exact h.bulkIn _

theorem Alike.addressedDevice : addressedDevice s' = addressedDevice s := by
  obtain ⟨l, o, x, rfl⟩ := h.elim
  rfl

theorem Alike.request {onDevice : Device → State → State} (hf : ∀ d, Alike (onDevice d s) (onDevice d s')) :
    Alike (request onDevice s) (request onDevice s') := by
  simp only [Machine.request, h.addressedDevice]
  split
  · exact (h.report _ _).raiseFlag _
  · exact hf _

theorem Alike.transferTrigger (v : Byte) : Alike (transferTrigger v s) (transferTrigger v s') := by
  refine h.request fun d => ?_
  cases decodeTransfer v with
  | setup ep => exact h.setupRequest d ep
  | hs => exact h.raiseFlag _
  | out ep => exact h.outRequest d ep
  | inn ep => exact h.inRequest d ep

theorem Alike.complete (p : Pending) (bs : List Byte) : Alike (complete p bs s) (complete p bs s') := by
  have henq := (h.unsubscribe p).enqN .rcv bs
  unfold Machine.complete
  dsimp only
  split
  · exact henq.raiseFlag _
  · exact (henq.setFld _ _).raiseFlag _

theorem Alike.command (c : Command) : Alike (command c s) (command c s') := by
  obtain ⟨l, o, x, rfl⟩ := h.elim
  cases c <;> rfl

end

/-! ### Hooks -/

/-- The two runs differ in the log, the outputs and the last decoded target of their states alone. -/
structure HookRun.Alike (x x' : HookRun) : Prop where
  old : x.old = x'.old
  new : x.new = x'.new
  nums : x.nums = x'.nums
  seqs : x.seqs = x'.seqs
  state : Machine.Alike x.state x'.state

theorem HookRun.Alike.elim {x x' : HookRun} (h : x.Alike x') :
    ∃ s', Machine.Alike x.state s' ∧ x' = { x with state := s' } := by
  obtain ⟨old, new, nums, seqs, s⟩ := x
  obtain ⟨old', new', nums', seqs', s'⟩ := x'
  obtain ⟨rfl, rfl, rfl, rfl, hs⟩ := h
  exact ⟨s', hs, rfl⟩

theorem Alike.readPart {s s' : State} (h : Alike s s') (p : StatePart) : readPart s' p = readPart s p := by
  obtain ⟨l, o, x, rfl⟩ := h.elim
  cases p with
  | count q => cases q <;> rfl
  | _ => rfl

/-- A hook computes the same number: its view of the state leaves out what the two differ in. -/
theorem HookRun.Alike.evalExpr {x x' : HookRun} (h : x.Alike x') (e : HookExpr) :
    evalExpr x' e = evalExpr x e := by
  obtain ⟨s', hs, rfl⟩ := h.elim
  induction e with
  | lit | old | new | num | len => rfl
  | item k i ih => rw [Machine.evalExpr, ih, Machine.evalExpr]
  | part p => exact hs.readPart p
  | queued q i ih => rw [Machine.evalExpr, ih, hs.queue, Machine.evalExpr]
  | pending id kind ih =>
    rw [Machine.evalExpr, ih, Machine.evalExpr]
    obtain ⟨l, o, y, rfl⟩ := hs.elim
    rfl
  | attached a ih =>
    rw [Machine.evalExpr, ih, Machine.evalExpr]
    obtain ⟨l, o, y, rfl⟩ := hs.elim
    rfl
  | op o a b iha ihb => rw [Machine.evalExpr, iha, ihb, Machine.evalExpr]
  | declared n =>
    obtain ⟨l, o, y, rfl⟩ := hs.elim
    rfl

theorem HookRun.Alike.setNum {x x' : HookRun} (h : x.Alike x') (k v : Nat) : (x.setNum k v).Alike (x'.setNum k v) :=
  ⟨h.old, h.new, by simp only [HookRun.setNum, h.nums], h.seqs, h.state⟩

theorem HookRun.Alike.setSeq {x x' : HookRun} (h : x.Alike x') (k : Nat) (bs : List Byte) :
    (x.setSeq k bs).Alike (x'.setSeq k bs) :=
  ⟨h.old, h.new, h.nums, by simp only [HookRun.setSeq, h.seqs], h.state⟩

theorem HookRun.Alike.on {x x' : HookRun} (h : x.Alike x') {f f' : State → State}
    (hf : Machine.Alike (f x.state) (f' x'.state)) : (x.on f).Alike (x'.on f') :=
  ⟨h.old, h.new, h.nums, h.seqs, hf⟩

/-- One call takes alike runs to alike runs. -/
theorem HookRun.Alike.runCall {x x' : HookRun} (h : x.Alike x') (c : HookCall) :
    (runCall c x).Alike (runCall c x') := by
  have hs := h.state
  have hbyte (e : HookExpr) : exprByte x' e = exprByte x e := by rw [exprByte, h.evalExpr, exprByte]
  cases c with
  | setNum k e =>
    rw [Machine.runCall, Machine.runCall, h.evalExpr]
    exact h.setNum _ _
  | push k e =>
    rw [Machine.runCall, Machine.runCall, hbyte, h.seqs]
    exact h.setSeq _ _
  | drop k => exact h.setSeq _ _
  | raw f e =>
    rw [Machine.runCall, Machine.runCall, h.evalExpr]
    exact h.on (hs.setFld _ _)
  | enq1 q e =>
    rw [Machine.runCall, Machine.runCall, hbyte]
    exact h.on (hs.enqN _ _)
  | enqN q k =>
    rw [Machine.runCall, Machine.runCall, h.seqs]
    exact h.on (hs.enqN _ _)
  | deq1 q k =>
    rw [Machine.runCall, Machine.runCall, (hs.deq1 q).1]
    exact (h.on (hs.deq1 q).2).setNum _ _
  | deqN q n k =>
    rw [Machine.runCall, Machine.runCall, h.evalExpr, deqN, deqN, hs.queue]
    exact (h.on (by rw [deqN, deqN, hs.queue]; exact hs.setBytes _ _)).setSeq _ _
  | deqAll q k =>
    rw [Machine.runCall, Machine.runCall, deqAll, deqAll, hs.queue]
    exact (h.on (hs.setBytes _ _)).setSeq _ _
  | clear q => exact h.on (hs.setBytes _ _)
  | recompute => exact h.on hs.recompute
  | line e =>
    rw [Machine.runCall, Machine.runCall, h.evalExpr]
    exact h.on (hs.setLine _)
  | vcStart => exact h.on hs.clockStart
  | transfer e =>
    rw [Machine.runCall, Machine.runCall, hbyte]
    exact h.on (hs.transferTrigger _)
  | setup d => exact h.on (hs.setupTransaction d)
  | bulkOut e => exact h.on (hs.bulkOut e)
  | bulkIn eo => exact h.on (hs.bulkIn eo)
  | writeData e k =>
    exact h.on (f := fun s => s.emit (.writeData e (x.seqs k))) (f' := fun s => s.emit (.writeData e (x'.seqs k)))
      (hs.emit _ _)
  | subscribe kind k =>
    have hid : (subscribe kind x.state).1 = (subscribe kind x'.state).1 := by
      obtain ⟨l, o, y, hx⟩ := hs.elim
      rw [hx]
      rfl
    rw [Machine.runCall, Machine.runCall, hid]
    exact (h.on (hs.subscribe kind)).setNum _ _
  | unsubscribe id kind =>
    rw [Machine.runCall, Machine.runCall, h.evalExpr]
    exact h.on (hs.unsubscribe _)
  | command e =>
    rw [Machine.runCall, Machine.runCall, hbyte]
    exact h.on (hs.command _)
  | attach | detach =>
    rw [Machine.runCall, Machine.runCall, h.evalExpr]
    refine h.on ?_
    obtain ⟨l, o, y, hx⟩ := hs.elim
    rw [hx]
    rfl
  | select e =>
    rw [Machine.runCall, Machine.runCall, h.evalExpr]
    exact h.on (f := fun s => s.setCs (Machine.evalExpr x e != 0)) (f' := fun s => s.setCs (Machine.evalExpr x e != 0))
      (hs.setCs _)
  | vcStop => exact h.on hs.clockStop
  | vcDispose => exact h.on hs.clockDispose
  | frameEnd => exact h.on hs.frameEnd
  | psmReset => exact h.on hs.psmReset
  | report r => exact h.on (f := fun s => s.report r) (f' := fun s => s.report r) (hs.report r r)
  | bankWrite offset => exact h.on (f := innerAccess offset) (f' := innerAccess offset) (hs.report _ _)
  | bankRead offset _ k =>
    exact (h.on (f := innerAccess offset) (f' := innerAccess offset) (hs.report _ _)).setNum k 0

/-- A hook takes alike runs to alike runs. -/
theorem HookRun.Alike.runHook (hk : Hook) : ∀ {x x' : HookRun}, x.Alike x' → (runHook hk x).Alike (runHook hk x') := by
  induction hk with
  | skip => exact id
  | call c => exact fun h => h.runCall c
  | seq a b iha ihb => exact fun h => ihb (iha h)
  | ite e a b iha ihb =>
    intro x x' h
    rw [Machine.runHook, Machine.runHook, h.evalExpr]
    split
    · exact iha h
    · exact ihb h
  | rep e a ih =>
    intro x x' h
    rw [Machine.runHook, Machine.runHook, h.evalExpr]
    generalize Machine.evalExpr x e = n
    induction n generalizing x x' with
    | zero => exact h
    | succ n ihn => exact ihn (ih h)

section
variable {s s' : State} (h : Alike s s')
include h

theorem Alike.start (old new : Nat) : (HookRun.start old new s).Alike (HookRun.start old new s') :=
  ⟨rfl, rfl, rfl, rfl, h⟩

theorem Alike.callHook (hk : Hook) (old new : Nat) : Alike (callHook hk old new s) (callHook hk old new s') :=
  ((h.start old new).runHook hk).state

theorem Alike.callProvider (p : Provider) (stored : Nat) :
    (callProvider p stored s).1 = (callProvider p stored s').1 ∧
      Alike (callProvider p stored s).2 (callProvider p stored s').2 :=
  have hrun := (h.start stored stored).runHook p.body
  ⟨(hrun.evalExpr p.value).symm, hrun.state⟩

/-! ### Bank accesses -/

theorem Alike.fld (f : FieldId) : s'.fld f = s.fld f := by
  obtain ⟨l, o, x, rfl⟩ := h.elim
  rfl

theorem Alike.readField (f : Field) :
    (readField f s).1 = (readField f s').1 ∧ Alike (readField f s).2 (readField f s').2 := by
  unfold Machine.readField
  rw [h.fld]
  split
  · exact ⟨rfl, h⟩
  · split
    · exact ⟨rfl, h⟩
    · next p _ =>
      obtain ⟨hvalue, hstate⟩ := h.callProvider p (s.fld f.name)
      exact ⟨congrArg (trunc f.width) hvalue, hstate⟩

end

theorem Alike.readFields (fs : List Field) : ∀ {s s' : State}, Alike s s' → ∀ acc : Nat,
    (readFields fs acc s).1 = (readFields fs acc s').1 ∧ Alike (readFields fs acc s).2 (readFields fs acc s').2 := by
  induction fs with
  | nil => exact fun h _ => ⟨rfl, h⟩
  | cons f fs ih =>
    intro s s' h acc
    obtain ⟨hvalue, hstate⟩ := h.readField f
    rw [Machine.readFields, Machine.readFields, hvalue]
    exact ih hstate _

theorem Alike.storeFields (W v : Nat) (fs : List Field) : ∀ {s s' : State}, Alike s s' →
    Alike (storeFields W v fs s) (storeFields W v fs s') := by
  induction fs with
  | nil => exact id
  | cons f fs ih =>
    intro s s' h
    refine ih ?_
    unfold storeField
    split
    · exact h
    · exact h.setFld _ _
    · exact h.setFld _ _
    · rw [h.fld]
      exact h.setFld _ _

theorem Alike.runHooks (before after : FieldVals) (fs : List Field) : ∀ {s s' : State}, Alike s s' →
    Alike (runHooks before after fs s) (runHooks before after fs s') := by
  have hpresent (ho : Option Hook) (old new : Nat) {s s' : State} (h : Alike s s') :
      Alike (callPresent ho old new s) (callPresent ho old new s') := by
    cases ho with
    | none => exact h
    | some hk => exact h.callHook hk old new
  induction fs with
  | nil => exact id
  | cons f fs ih =>
    intro s s' h
    refine ih ?_
    unfold fieldHooks
    split
    · exact h
    · exact hpresent _ _ _ (hpresent _ _ _ h)

section
variable {s s' : State} (h : Alike s s')
include h

theorem Alike.bank : s'.bank = s.bank := by
  obtain ⟨l, o, x, rfl⟩ := h.elim
  rfl

theorem Alike.par : s'.par = s.par := by
  obtain ⟨l, o, x, rfl⟩ := h.elim
  rfl

theorem Alike.psmState : s'.psm.state = s.psm.state := by
  obtain ⟨l, o, x, rfl⟩ := h.elim
  rfl

theorem Alike.cs : s'.cs = s.cs := by
  obtain ⟨l, o, x, rfl⟩ := h.elim
  rfl

theorem Alike.clk : s'.clk = s.clk := by
  obtain ⟨l, o, x, rfl⟩ := h.elim
  rfl

theorem Alike.ended : s'.ended = s.ended := by
  obtain ⟨l, o, x, rfl⟩ := h.elim
  rfl

theorem Alike.pend : s'.pend = s.pend := by
  obtain ⟨l, o, x, rfl⟩ := h.elim
  rfl

theorem Alike.device (a : Nat) : s'.device a = s.device a := by
  obtain ⟨l, o, x, rfl⟩ := h.elim
  rfl

theorem Alike.bankRead (offset : Int) (width : Nat) :
    (bankRead offset width s).1 = (bankRead offset width s').1 ∧
      Alike (bankRead offset width s).2 (bankRead offset width s').2 := by
  unfold Machine.bankRead
  rw [h.bank, h.par]
  split
  · exact ⟨rfl, h.report _ _⟩
  · split
    · exact ⟨rfl, h.report _ _⟩
    · split
      · exact ⟨rfl, h.report _ _⟩
      · obtain ⟨hvalue, hstate⟩ := Alike.readFields _ (h.setBusy true) 0
        exact ⟨hvalue, hstate.setBusy false⟩

theorem Alike.bankWrite (offset : Int) (width value : Nat) :
    Alike (bankWrite offset width value s) (bankWrite offset width value s') := by
  unfold Machine.bankWrite
  rw [h.bank, h.par]
  split
  · exact h.report _ _
  · split
    · exact h.report _ _
    · split
      · exact h.report _ _
      · next r _ =>
        have hstored := Alike.storeFields s.par.width value r.fields (h.setBusy true)
        unfold writeRegister
        rw [h.bank, h.par]
        dsimp only
        rw [hstored.bank]
        exact (Alike.runHooks _ _ _ hstored).setBusy false

/-! ### The operations -/

theorem Alike.afterByte : Alike (afterByte s) (afterByte s') := by
  unfold Machine.afterByte
  rw [h.par]
  split
  · obtain ⟨l, o, x, rfl⟩ := h.elim
    rfl
  · exact h

theorem Alike.dataByte (t : BitVec 5) (b : Byte) :
    (dataByte t b s).1 = (dataByte t b s').1 ∧ Alike (dataByte t b s).2 (dataByte t b s').2 :=
  ⟨rfl, (h.bankWrite _ _ _).afterByte⟩

theorem Alike.dummyByte (t : BitVec 5) :
    (dummyByte t s).1 = (dummyByte t s').1 ∧ Alike (dummyByte t s).2 (dummyByte t s').2 :=
  have ⟨hvalue, hstate⟩ := h.bankRead t.toNat 8
  ⟨congrArg (BitVec.ofNat 8) hvalue, hstate.afterByte⟩

theorem Alike.unexpectedByte (b : Byte) :
    (unexpectedByte b s).1 = (unexpectedByte b s').1 ∧ Alike (unexpectedByte b s).2 (unexpectedByte b s').2 :=
  ⟨rfl, h.report _ _⟩

theorem Alike.psmByte (b : Byte) :
    (psmByte b s).1 = (psmByte b s').1 ∧ Alike (psmByte b s).2 (psmByte b s').2 := by
  unfold Machine.psmByte
  rw [h.psmState]
  split
  · exact ⟨rfl, h.command _⟩
  · exact h.dataByte _ b
  · exact h.dummyByte _

theorem Alike.peripheralReset : Alike (peripheralReset s) (peripheralReset s') := by
  obtain ⟨l, o, x, rfl⟩ := h.elim
  rfl

theorem Alike.advance (dt : Rat) : Alike (advance dt s) (advance dt s') := by
  obtain ⟨l, o, x, ht⟩ := h.clockTick.elim
  unfold Machine.advance clockEnabled period
  rw [h.clk]
  split
  · exact h
  · split
    · obtain ⟨l, o, x, rfl⟩ := h.elim
      rfl
    · rw [ht]
      rfl

end

/-- The two answers are states alike, or the same refusal. -/
def SameAnswer (a a' : Answer) : Prop :=
  (∃ t t', a = .next t ∧ a' = .next t' ∧ Alike t t') ∨ ∃ r, a = .refused r ∧ a' = .refused r

theorem Alike.next {t t' : State} (h : Alike t t') : SameAnswer (.next t) (.next t') := .inl ⟨t, t', rfl, rfl, h⟩

theorem SameAnswer.refused (r : Refusal) : SameAnswer (.refused r) (.refused r) := .inr ⟨r, rfl, rfl⟩

theorem SameAnswer.live {s s' : State} (h : Alike s s') {a a' : Answer} (ha : SameAnswer a a') :
    SameAnswer (live s a) (live s' a') := by
  unfold Machine.live
  rw [h.ended]
  split
  · exact .refused _
  · exact ha

theorem SameAnswer.answerByte {r r' : Byte × State} (h : r.1 = r'.1 ∧ Alike r.2 r'.2) :
    SameAnswer (answerByte r) (answerByte r') := (h.2.emit _ _).next

section
variable {s s' : State} (h : Alike s s')
include h

theorem Alike.callback (p : Pending) (bs : List Byte) : SameAnswer (callback p bs s) (callback p bs s') := by
  unfold Machine.callback
  rw [h.pend, h.ended]
  split
  · exact (h.complete p bs).next
  · exact h.next

theorem Alike.execPAttach (a : Nat) (d : Device) : SameAnswer (execPAttach a d s) (execPAttach a d s') := by
  refine .live h ?_
  rw [h.device]
  split
  · exact .refused _
  · split
    · exact .refused _
    · refine (Alike.raiseFlag ?_ _).next
      obtain ⟨l, o, x, rfl⟩ := h.elim
      rfl

theorem Alike.execPDetach (a : Nat) : SameAnswer (execPDetach a s) (execPDetach a s') := by
  refine .live h ?_
  rw [h.device]
  split
  · refine (Alike.raiseFlag ?_ _).next
    obtain ⟨l, o, x, rfl⟩ := h.elim
    rfl
  · exact .refused _

theorem Alike.execPDispose : SameAnswer (execPDispose s) (execPDispose s') := by
  refine .live h (Alike.next ?_)
  obtain ⟨l, o, x, rfl⟩ := h.elim
  rfl

theorem Alike.execFrXfer (b : Byte) : SameAnswer (execFrXfer b s) (execFrXfer b s') := by
  refine .live h (.answerByte ?_)
  rw [h.cs]
  split
  · exact h.psmByte b
  · exact h.unexpectedByte b

theorem Alike.execPsmData (b : Byte) : SameAnswer (execPsmData b s) (execPsmData b s') := by
  unfold Machine.execPsmData
  rw [h.psmState]
  split
  · exact .answerByte (h.dataByte _ b)
  · exact .answerByte (h.unexpectedByte b)

theorem Alike.execPsmDummy (b : Byte) : SameAnswer (execPsmDummy b s) (execPsmDummy b s') := by
  unfold Machine.execPsmDummy
  rw [h.psmState]
  split
  · exact .answerByte (h.dummyByte _)
  · exact .answerByte (h.unexpectedByte b)

theorem Alike.execVcObtain (cb : Callback) (rate : Int) :
    SameAnswer (execVcObtain cb rate s) (execVcObtain cb rate s') := by
  unfold Machine.execVcObtain
  split
  · exact .refused _
  · refine (Alike.emit ?_ _ _).next
    obtain ⟨l, o, x, rfl⟩ := h.elim
    rfl

theorem Alike.execVcTick : SameAnswer (execVcTick s) (execVcTick s') := by
  unfold Machine.execVcTick clockEnabled
  rw [h.clk]
  split
  · exact h.clockTick.next
  · exact h.next

theorem Alike.execVcAdvance (dt : Rat) : SameAnswer (execVcAdvance dt s) (execVcAdvance dt s') := by
  unfold Machine.execVcAdvance
  split
  · exact .refused _
  · exact (h.advance dt).next

/-- Every operation answers two states that are alike in the same way. -/
theorem Alike.exec (i : Instr) : SameAnswer (exec i s) (exec i s') := by
  cases i with
  | cmdRd idx => exact (h.command (.rd idx)).next
  | cmdWr idx => exact (h.command (.wr idx)).next
  | xferSetup ep => exact (h.request fun d => h.setupRequest d ep).next
  | xferHs => exact (h.request fun _ => h.raiseFlag _).next
  | xferOut ep => exact (h.request fun d => h.outRequest d ep).next
  | xferIn ep => exact (h.request fun d => h.inRequest d ep).next
  | sudDecode => exact (h.emit _ _).next
  | frSelect => exact .live h (h.setCs _).frameEnd.next
  | frXfer b => exact h.execFrXfer b
  | frDeselect => exact .live h (h.setCs _).frameEnd.next
  | busRead offset => exact .live h ((h.bankRead offset 8).2.emit _ _).next
  | busWrite offset v => exact .live h (h.bankWrite offset 8 v.toNat).next
  | vcTick => exact h.execVcTick
  | vcAdvance dt => exact h.execVcAdvance dt
  | pAttach a d => exact h.execPAttach a d
  | pDetach a => exact h.execPDetach a
  | cbDataReady id _ bs => exact h.callback ⟨id, .dataReady⟩ bs
  | cbSetupResp id bs => exact h.callback ⟨id, .setupResp⟩ bs
  | pReset => exact .live h h.peripheralReset.next
  | pDispose => exact h.execPDispose
  | psmByte b => exact .answerByte (h.psmByte b)
  | psmData b => exact h.execPsmData b
  | psmDummy b => exact h.execPsmDummy b
  | psmFrameEnd => exact h.frameEnd.next
  | psmReset => exact h.psmReset.next
  | rbRead offset width => exact ((h.bankRead offset width).2.emit _ _).next
  | rbWrite offset width value => exact (h.bankWrite offset width value).next
  | rbReset => exact h.bankReset.next
  | iaRecompute => exact h.recompute.next
  | lineSet b => exact (h.setLine b).next
  | vcObtain cb rate => exact h.execVcObtain cb rate
  | vcStart => exact h.clockStart.next
  | vcStop => exact h.clockStop.next
  | vcDispose => exact h.clockDispose.next
  | fqEnq1 q b => exact (h.enqN q [b]).next
  | fqEnqN q bs => exact (h.enqN q bs).next
  | fqDeq1 q => exact ((h.deq1 q).2.emit _ _).next
  | fqDeqN q n =>
    refine (Alike.emit ?_ _ _).next
    rw [deqN, deqN, h.queue]
    exact h.setBytes q _
  | fqDeqAll q => exact ((h.setBytes q []).emit _ _).next
  | fqCount => exact (h.emit _ _).next
  | fqClear q => exact (h.setBytes q []).next
  | pFrameTick => exact (h.raiseFlag _).next
  | pXfer v => exact (h.transferTrigger v).next
  | pSetup d => exact (h.setupTransaction d).next
  | pBulkOut e => exact (h.bulkOut e).next
  | pBulkIn eo => exact (h.bulkIn eo).next

end

/-- Settles O60, by one lemma for each shared operation and each form of hook: it takes states alike to states alike. -/
theorem logAndLastTargetInfluenceNothing : Obligations.LogAndLastTargetInfluenceNothing :=
  fun i _ _ h => Alike.exec h i

end Sys2Proof.Machine

/-! A write frame is its register writes (R305): between the command byte and the deselection the machine stays in state
Writing with the target of the command, so every byte is one write there. -/

namespace Sys2Proof.Machine

/-- One data byte written to the target, with the byte it answers. -/
def writeTarget (t : BitVec 5) (s : State) (d : Byte) : State := (bankWrite t.toNat 8 d.toNat s).result (.byte 0)

/-- Inside a write frame to target `t`, with hooks that keep frames. -/
structure InWriteFrame (t : BitVec 5) (s : State) : Prop where
  keeps   : keepsFrames s.par.regmap = true
  ended   : s.ended = false
  framing : s.par.framing = .untilFrameEnd
  cs      : s.cs = true
  psm     : s.psm = { state := .writing t, last := some t }

theorem InWriteFrame.writeTarget {t : BitVec 5} {s : State} (h : InWriteFrame t s) (d : Byte) :
    InWriteFrame t (writeTarget t s d) := by
  have hgrows := grows_bankWrite t.toNat 8 d.toNat s
  have hframed := framed_bankWrite h.keeps t.toNat 8 d.toNat
  exact ⟨hgrows.par ▸ h.keeps, hgrows.ended.trans h.ended, hgrows.par ▸ h.framing, hframed.cs.trans h.cs,
    hframed.psm.trans h.psm⟩

theorem InWriteFrame.foldl {t : BitVec 5} (ds : List Byte) : ∀ {s : State}, InWriteFrame t s →
    InWriteFrame t (ds.foldl (Machine.writeTarget t) s) := by
  induction ds with
  | nil => exact id
  | cons d ds ih => exact fun h => ih (h.writeTarget d)

/-- A byte of the frame is one register write (R280). -/
theorem InWriteFrame.exec_frXfer {t : BitVec 5} {s : State} (h : InWriteFrame t s) (d : Byte) :
    exec (.frXfer d) s = .next (Machine.writeTarget t s d) := by
  have hpsm : s.psm.state = .writing t := by rw [h.psm]
  rw [exec_frXfer_of_selected h.ended h.cs, exec_psmByte_of_writing hpsm, exec_psmData_of_writing hpsm,
    (grows_bankWrite _ _ _ _).afterByte_untilFrameEnd h.framing, Machine.writeTarget]

theorem execAll_cons_of_next {i : Instr} {s t : State} (h : exec i s = .next t) (is : List Instr) :
    execAll (i :: is) s = execAll is t := by
  rw [execAll, h]

/-- The bytes of a frame are the writes in order. -/
theorem InWriteFrame.execAll_frXfer {t : BitVec 5} (is : List Instr) (ds : List Byte) : ∀ {s : State},
    InWriteFrame t s → execAll (ds.map .frXfer ++ is) s = execAll is (ds.foldl (Machine.writeTarget t) s) := by
  induction ds with
  | nil => exact fun _ => rfl
  | cons d ds ih =>
    intro s h
    rw [List.map_cons, List.cons_append, execAll_cons_of_next (h.exec_frXfer d), ih (h.writeTarget d), List.foldl_cons]

/-- The state in which the data bytes of a write frame begin. -/
def frameBegun (t : BitVec 5) (s : State) : State :=
  State.result { s with cs := true, psm := { state := .writing t, last := some t } } (.byte 0)

/-- The selection and the command byte lead into the frame (R301, R276, R278). -/
theorem execAll_frame_begin {s : State} (he : s.ended = false) {c : Byte} (hc : c &&& 0x02 = 0x02) (is : List Instr) :
    execAll (.frSelect :: .frXfer c :: is) s = execAll is (frameBegun (BitVec.ofNat 5 (c.toNat / 8)) s) := by
  have hbyte : exec (.frXfer c) (frameEnd (s.setCs true)) =
      .next (frameBegun (BitVec.ofNat 5 (c.toNat / 8)) s) := by
    rw [exec_frXfer_of_selected (s := frameEnd (s.setCs true)) he rfl, exec_psmByte_of_idle rfl,
      command_decodeCommand, if_pos hc]
    rfl
  rw [execAll_cons_of_next (exec_frSelect_eq s he), execAll_cons_of_next hbyte]

theorem inWriteFrame_frameBegun {s : State} (hk : keepsFrames s.par.regmap = true) (he : s.ended = false)
    (hf : s.par.framing = .untilFrameEnd) (t : BitVec 5) : InWriteFrame t (frameBegun t s) :=
  ⟨hk, he, hf, rfl, rfl⟩

/-- The deselection ends the frame and keeps the target (R303, R283). -/
theorem InWriteFrame.execAll_frDeselect {t : BitVec 5} {s : State} (h : InWriteFrame t s) :
    execAll [.frDeselect] s = .next { s with cs := false, psm := { state := .idle, last := some t } } := by
  rw [execAll_cons_of_next (exec_frDeselect_eq s h.ended), execAll, frameEnd, State.setPsm, State.setCs]
  dsimp only
  rw [h.psm]

/-- One data byte as the statement has it: the write, answered with 0, unless something before was refused. -/
def writeAnswer (offset : Int) (a : Answer) (d : Byte) : Answer :=
  match a with
  | .next x =>
    match exec (.rbWrite offset 8 d.toNat) x with
    | .next y => .next (y.result (.byte 0))
    | o => o
  | o => o

theorem foldl_writeAnswer (t : BitVec 5) (ds : List Byte) : ∀ s : State,
    ds.foldl (writeAnswer t.toNat) (.next s) = .next (ds.foldl (writeTarget t) s) := by
  induction ds with
  | nil => exact fun _ => rfl
  | cons d ds ih => exact fun s => ih (writeTarget t s d)

/-- Settles O13, by induction on the data bytes: the frame's state is an invariant that makes each byte one write. -/
theorem writeFrameIsItsRegisterWrites : Obligations.WriteFrameIsItsRegisterWrites := by
  intro s c ds hk he hf hc
  have htarget : ((BitVec.ofNat 5 (c.toNat / 8)).toNat : Int) = c.toNat / 8 := by
    rw [BitVec.toNat_ofNat, Nat.mod_eq_of_lt (by omega)]
    exact Int.natCast_ediv _ _
  have hbegun := inWriteFrame_frameBegun hk he hf (BitVec.ofNat 5 (c.toNat / 8))
  refine ⟨ds.foldl (writeTarget (BitVec.ofNat 5 (c.toNat / 8))) (frameBegun (BitVec.ofNat 5 (c.toNat / 8)) s), ?_, ?_⟩
  · rw [← htarget]
    exact foldl_writeAnswer _ ds _
  · rw [List.cons_append, List.cons_append, execAll_frame_begin he hc, hbegun.execAll_frXfer,
      (hbegun.foldl ds).execAll_frDeselect]

end Sys2Proof.Machine

/-! The bank over every well-formed declaration: the reset of the fields (R184), a read after a write (R189) and the accesses
that hooks start (R183). -/

namespace Sys2Proof.Machine

/-! ### Well-formed declarations -/

theorem regmapWf_iff (W : Nat) (m : List Register) : regmapWf W m = true ↔
    1 ≤ W ∧ (∀ r ∈ m, r.wf W = true) ∧ m.Pairwise (fun r r' => r.index ≠ r'.index) ∧
      (m.flatMap fun r => r.fields.map (·.name)).Nodup := by
  simp only [regmapWf, Bool.and_eq_true, decide_eq_true_eq, List.all_eq_true, and_assoc]

theorem field_inside_of_regmapWf {W : Nat} {m : List Register} (hm : regmapWf W m = true) {r : Register} (hr : r ∈ m)
    {f : Field} (hf : f ∈ r.fields) : f.offset + f.width ≤ W := by
  obtain ⟨-, hwf, -, -⟩ := (regmapWf_iff W m).1 hm
  have hr := hwf r hr
  simp only [Register.wf, Bool.and_eq_true, List.all_eq_true] at hr
  obtain ⟨⟨-, hfields⟩, -⟩ := hr
  have hf := hfields f hf
  simp only [Field.wf, Bool.and_eq_true, decide_eq_true_eq] at hf
  obtain ⟨⟨⟨⟨-, hin⟩, -⟩, -⟩, -⟩ := hf
  exact hin

/-- The fields of one register of a well-formed declaration have different names. -/
theorem fields_nodup_of_regmapWf {W : Nat} {m : List Register} (hm : regmapWf W m = true) {r : Register} (hr : r ∈ m) :
    (r.fields.map (·.name)).Nodup := by
  obtain ⟨-, -, -, hnodup⟩ := (regmapWf_iff W m).1 hm
  exact (List.nodup_flatMap.1 hnodup).1 r hr

/-- A register of a well-formed declaration is the one found at its offset. -/
theorem findRegister_of_mem {m : List Register} (hm : m.Pairwise fun r r' => r.index ≠ r'.index) {r : Register}
    (hr : r ∈ m) : findRegister m r.index = some r := by
  induction m with
  | nil => exact nomatch hr
  | cons q m ih =>
    obtain ⟨hq, hm⟩ := List.pairwise_cons.1 hm
    rcases List.mem_cons.1 hr with rfl | hr
    · exact List.find?_cons_of_pos (decide_eq_true rfl)
    · rw [findRegister, List.find?_cons_of_neg (by simpa using hq r hr), ← findRegister, ih hm hr]

/-! ### The reset of the fields -/

/-- A field set once among several is at its value. -/
theorem FieldVals.get_sets_of_mem {f : FieldId} {v : Nat} {l : List (FieldId × Nat)} (hl : (l.map (·.1)).Nodup)
    (h : (f, v) ∈ l) : ∀ b : FieldVals, (b.sets l).get f = v := by
  induction l with
  | nil => exact nomatch h
  | cons e l ih =>
    intro b
    obtain ⟨he, hl⟩ := List.nodup_cons.1 hl
    rw [FieldVals.sets, List.foldl_cons, ← FieldVals.sets]
    rcases List.mem_cons.1 h with rfl | h
    · rw [FieldVals.get_sets_of_not_mem he, FieldVals.get_set_self]
    · exact ih hl h _

/-- The declared fields with their reset values, in order. -/
def resetValues (m : List Register) : List (FieldId × Nat) :=
  m.flatMap fun r => r.fields.map fun f => (f.name, resetOf r f)

theorem map_fst_resetValues (m : List Register) :
    (resetValues m).map (·.1) = m.flatMap fun r => r.fields.map (·.name) := by
  simp only [resetValues, List.map_flatMap, List.map_map, Function.comp_def]

theorem resetRegister_eq_sets (r : Register) (fs : List Field) : ∀ b : FieldVals,
    resetRegister r fs b = b.sets (fs.map fun f => (f.name, resetOf r f)) := by
  induction fs with
  | nil => exact fun _ => rfl
  | cons f fs ih => exact fun b => ih _

theorem resetFields_eq_sets (m : List Register) : ∀ b : FieldVals, resetFields m b = b.sets (resetValues m) := by
  induction m with
  | nil => exact fun _ => rfl
  | cons r m ih =>
    intro b
    rw [resetFields, ih, resetRegister_eq_sets, FieldVals.sets, FieldVals.sets, FieldVals.sets, ← List.foldl_append]
    rfl

theorem resetOf_eq (r : Register) (f : Field) : resetOf r f = r.reset / 2 ^ f.offset % 2 ^ f.width := by
  rw [resetOf, mask, Nat.and_two_pow_sub_one_eq_mod, Nat.shiftRight_eq_div_pow]

/-- Settles O41: the reset sets each declared field once, the names being different. -/
theorem bankResetRestoresDeclaredValues : Obligations.BankResetRestoresDeclaredValues := by
  intro s hwf
  obtain ⟨-, -, -, hnodup⟩ := (regmapWf_iff _ _).1 hwf
  rw [← map_fst_resetValues] at hnodup
  refine ⟨bankReset s, rfl, rfl, rfl, fun r hr f hf => ?_, fun g hg => ?_⟩
  · have hmem : (f.name, resetOf r f) ∈ resetValues s.par.regmap :=
      List.mem_flatMap.2 ⟨r, hr, List.mem_map_of_mem hf⟩
    rw [State.fld_eq, bankReset, resetFields_eq_sets, FieldVals.get_sets_of_mem hnodup hmem, resetOf_eq]
  · have hnot : g ∉ (resetValues s.par.regmap).map (·.1) := by
      rw [map_fst_resetValues, List.mem_flatMap]
      rintro ⟨r, hr, hname⟩
      obtain ⟨f, hf, hfg⟩ := List.mem_map.1 hname
      exact hg r hr f hf hfg
    rw [State.fld_eq, bankReset, resetFields_eq_sets, FieldVals.get_sets_of_not_mem hnot, State.fld_eq]

/-! ### Bank accesses that hooks start -/

/-- A hook that reads a bank register and then writes one. -/
def accessHook (o p : Int) (w k : Nat) (x : HookExpr) : Hook := .seq (.call (.bankRead o w k)) (.call (.bankWrite p w x))

/-- Both accesses of the hook are reported, and nothing else happens (R183). -/
theorem callHook_accessHook (o p : Int) (w k : Nat) (x : HookExpr) (old new : Nat) (s : State) :
    callHook (accessHook o p w k x) old new s = { s with log := s.log ++ [.reentrant o, .reentrant p] } := by
  change { s with log := s.log ++ [Report.reentrant o] ++ [Report.reentrant p] } = _
  rw [List.append_assoc, List.singleton_append]

/-- A provider that returns what its read answered returns 0 (R183). -/
theorem callProvider_accessHook (o p : Int) (w k : Nat) (x : HookExpr) (stored : Nat) (s : State) :
    callProvider { body := accessHook o p w k x, value := .num k } stored s =
      (0, { s with log := s.log ++ [.reentrant o, .reentrant p] }) :=
  Prod.ext (if_pos rfl) (callHook_accessHook o p w k x stored stored s)

/-- Settles O39, by the read and the write of a register of one field with such a hook. -/
theorem hookBankAccessIsRefused : Obligations.HookBankAccessIsRefused := by
  intro s offset o p w k value x r f hwf hb hr hf hm
  constructor
  · intro hp
    have hread (u : State) : readFields r.fields 0 u = (0, { u with log := u.log ++ [.reentrant o, .reentrant p] }) := by
      have hfield : readField f u = (0, { u with log := u.log ++ [.reentrant o, .reentrant p] }) := by
        simp only [readField, hm, hp]
        rw [← accessHook, callProvider_accessHook, trunc, Nat.zero_mod]
      rw [hf, readFields, readFields, hfield, fieldImage, Nat.zero_shiftLeft, Nat.zero_or]
    rw [exec_rbRead_eq, bankRead_declared hb hr, hread]
    exact congrArg (fun t : State => Host.Outcome.next (t.result (.value 0)))
      (State.setBusy_setBusy_eq_self (s := { s with log := s.log ++ [.reentrant o, .reentrant p] }) true hb)
  · intro hw hp
    have hin := field_inside_of_regmapWf hwf (findRegister_some hr).1 (hf ▸ List.mem_singleton_self f)
    rw [exec_rbWrite_eq, bankWrite_declared value hb hr, writeRegister_single_rw hf hm hin, hw, hp, callPresent, callPresent,
      ← accessHook, callHook_accessHook]
    exact congrArg Host.Outcome.next (State.setBusy_setBusy_eq_self
      (s := { s.withVal (s.bank.val.set f.name (value / 2 ^ f.offset % 2 ^ f.width)) with
        log := s.log ++ [.reentrant o, .reentrant p] }) true hb)

end Sys2Proof.Machine

/-! A read after a write returns what the modes say (R189): phase 1 leaves every field of the register at the value of its
mode, the hooks leave those fields alone, and the read gathers them. -/

namespace Sys2Proof.Machine

/-- What phase 1 of a write leaves in a field (R176 to R180). -/
def storedValue (W v : Nat) (f : Field) (s : State) : Nat :=
  match f.mode with
  | .ro => s.fld f.name
  | .wo | .rw => fieldPart W f v
  | .w1c => w1cNew f.width (s.fld f.name) (fieldPart W f v)

theorem storeField_fld_self (W v : Nat) (f : Field) (s : State) :
    (storeField W v f s).fld f.name = storedValue W v f s := by
  unfold storeField storedValue
  cases f.mode with
  | ro => rfl
  | wo | rw | w1c => exact s.fld_setFld_self _ _

theorem storeField_fld_of_ne (W v : Nat) {f : Field} {g : FieldId} (h : g ≠ f.name) (s : State) :
    (storeField W v f s).fld g = s.fld g := by
  unfold storeField
  cases f.mode with
  | ro => rfl
  | wo | rw | w1c => exact s.fld_setFld_other h _

theorem storeFields_fld_of_not_mem (W v : Nat) {g : FieldId} {fs : List Field} (h : g ∉ fs.map (·.name)) :
    ∀ s : State, (storeFields W v fs s).fld g = s.fld g := by
  induction fs with
  | nil => exact fun _ => rfl
  | cons f fs ih =>
    intro s
    rw [List.map_cons, List.mem_cons, not_or] at h
    obtain ⟨hf, hfs⟩ := h
    rw [storeFields, ih hfs, storeField_fld_of_ne W v hf]

theorem storedValue_congr (W v : Nat) {f : Field} {s t : State} (h : t.fld f.name = s.fld f.name) :
    storedValue W v f t = storedValue W v f s := by
  simp only [storedValue, h]

/-- Phase 1 treats each field of the register by itself, the names being different. -/
theorem storeFields_fld (W v : Nat) {fs : List Field} (hn : (fs.map (·.name)).Nodup) {f : Field} (hf : f ∈ fs) :
    ∀ s : State, (storeFields W v fs s).fld f.name = storedValue W v f s := by
  induction fs with
  | nil => exact nomatch hf
  | cons g fs ih =>
    intro s
    obtain ⟨hg, hn⟩ := List.nodup_cons.1 hn
    rw [storeFields]
    rcases List.mem_cons.1 hf with rfl | hf
    · rw [storeFields_fld_of_not_mem W v hg, storeField_fld_self]
    · have hne : f.name ≠ g.name := fun h => hg (List.mem_map.2 ⟨f, hf, h⟩)
      rw [ih hn hf, storedValue_congr W v (storeField_fld_of_ne W v hne s)]

/-- The hook, where there is one, leaves the field alone. -/
theorem callPresent_fld {g : FieldId} {ho : Option Hook}
    (h : ∀ hk, ho = some hk → ∀ (old new : Nat) (u : State), (callHook hk old new u).fld g = u.fld g) (old new : Nat)
    (u : State) : (callPresent ho old new u).fld g = u.fld g := by
  cases ho with
  | none => rfl
  | some hk => exact h hk rfl old new u

/-- Phase 2 leaves a field alone that no hook of the register updates. -/
theorem runHooks_fld {g : FieldId} (b a : FieldVals) {fs : List Field}
    (h : ∀ f ∈ fs, ∀ hk, f.writeEffect = some hk ∨ f.postWrite = some hk →
      ∀ (old new : Nat) (u : State), (callHook hk old new u).fld g = u.fld g) :
    ∀ s : State, (runHooks b a fs s).fld g = s.fld g := by
  induction fs with
  | nil => exact fun _ => rfl
  | cons f fs ih =>
    intro s
    obtain ⟨hf, hfs⟩ := List.forall_mem_cons.1 h
    rw [runHooks, ih hfs]
    unfold fieldHooks
    cases f.mode with
    | ro => rfl
    | wo | rw | w1c =>
      exact (callPresent_fld (fun hk hpost => hf hk (.inr hpost)) _ _ _).trans
        (callPresent_fld (fun hk heffect => hf hk (.inl heffect)) _ _ _)

/-- Clearing the bits written as 1 keeps those of the complement within the field's width (R153). -/
theorem w1cNew_eq {w x : Nat} (hx : x < 2 ^ w) (old : Nat) : w1cNew w old x = old &&& (2 ^ w - 1 - x) := by
  have hcompl : mask w ^^^ x = 2 ^ w - 1 - x := by
    rw [mask, Nat.sub_sub, Nat.add_comm 1 x]
    refine Nat.eq_of_testBit_eq fun i => ?_
    rw [Nat.testBit_two_pow_sub_succ hx, Nat.testBit_xor, Nat.testBit_two_pow_sub_one]
    by_cases hi : i < w
    · simp [hi]
    · simp [hi, Nat.testBit_lt_two_pow (hx.trans_le (Nat.pow_le_pow_right (by decide) (Nat.le_of_not_lt hi)))]
  rw [w1cNew, hcompl]

/-- What a field reads after a write, by its mode. -/
def readBack (v : Nat) (s : State) (f : Field) : Nat :=
  match f.mode with
  | .wo => 0
  | .ro => s.fld f.name
  | .rw => v / 2 ^ f.offset % 2 ^ f.width
  | .w1c => s.fld f.name &&& (2 ^ f.width - 1 - v / 2 ^ f.offset % 2 ^ f.width)

theorem readValue_of_stored {W : Nat} {f : Field} (hin : f.offset + f.width ≤ W) (v : Nat) {s t : State}
    (ht : t.fld f.name = storedValue W v f s) : readValue f t = readBack v s f := by
  rw [storedValue, fieldPart_eq hin] at ht
  unfold readValue readBack
  cases hm : f.mode with
  | wo => rfl
  | ro | rw => simpa only [hm] using ht
  | w1c =>
    simp only [hm] at ht
    exact ht.trans (w1cNew_eq (Nat.mod_lt _ (Nat.two_pow_pos _)) _)

/-- A fold of fields depends on their values alone. -/
theorem foldl_image_congr {fs : List Field} {x y : Field → Nat} (h : ∀ f ∈ fs, x f = y f) (acc : Nat) :
    fs.foldl (fun acc f => acc ||| fieldImage f (x f)) acc = fs.foldl (fun acc f => acc ||| fieldImage f (y f)) acc :=
  List.foldl_ext _ _ acc fun acc f hf => by rw [h f hf]

/-- Settles O38, by the two phases of the write and the read of fields without provider. -/
theorem readAfterWriteByMode : Obligations.ReadAfterWriteByMode := by
  rintro s offset value r hwf hb hr rfl hprovider hhooks
  obtain ⟨-, -, hindex, -⟩ := (regmapWf_iff _ _).1 hwf
  have hfind := findRegister_of_mem hindex hr
  have hgrows := grows_bankWrite r.index s.par.width value s
  have hwrite := bankWrite_declared value hb hfind
  have hbusy : (bankWrite r.index s.par.width value s).bank.busy = false := by
    rw [hwrite]
    rfl
  have hfld : ∀ f ∈ r.fields, (bankWrite r.index s.par.width value s).fld f.name =
      storedValue s.par.width value f s := by
    intro f hf
    have hkeep := runHooks_fld (g := f.name) s.bank.val
      (storeFields s.par.width value r.fields (s.setBusy true)).bank.val
      fun g hg hk hhook => hhooks g hg hk hhook f hf
    have hstored := storeFields_fld s.par.width value (fields_nodup_of_regmapWf hwf hr) hf (s.setBusy true)
    rw [hwrite]
    exact (hkeep _).trans hstored
  refine ⟨bankWrite r.index s.par.width value s, exec_rbWrite_eq _ _ _ _, ?_⟩
  generalize bankWrite r.index s.par.width value s = t at hgrows hbusy hfld
  rw [← hgrows.par] at hfind
  rw [exec_rbRead_eq, ← hgrows.par, bankRead_declared hbusy hfind, readFields_of_no_provider _ hprovider,
    State.setBusy_setBusy_eq_self true hbusy]
  refine congrArg (fun n => Host.Outcome.next (t.result (.value n))) ?_
  exact foldl_image_congr (x := fun f => readValue f (t.setBusy true)) (y := readBack value s)
    (fun f hf => readValue_of_stored (field_inside_of_regmapWf hwf hr hf) value (hfld f hf)) 0

end Sys2Proof.Machine

/-! An advance with no other agent's step in between (R157, R233): it takes one tick for each whole period, and the rest of the
time stays as the phase. -/

namespace Sys2Proof.Machine

/-- What `n` ticks in a row leave of a state, apart from the clock and the schedule. -/
structure Ticks (n : Nat) (s t : State) : Prop where
  out  : t.out.length = s.out.length + n
  psm  : t.psm = s.psm
  cs   : t.cs = s.cs
  sud  : t.sud = s.sud
  snd  : t.snd = s.snd
  rcv  : t.rcv = s.rcv
  pend : t.pend = s.pend
  dev  : t.dev = s.dev
  val  : t.bank.val = if n = 0 then s.bank.val else { s.bank.val with frameIrq := 1 }

/-- A tick first, then `n` more. -/
theorem Ticks.of_clockTick {n : Nat} {s u t : State} {i : List Stimulus} (hu : u = { clockTick s with inbox := i })
    (h : Ticks n u t) : Ticks (n + 1) s t := by
  subst hu
  obtain ⟨out, psm, cs, sud, snd, rcv, pend, dev, val⟩ := h
  rw [clockTick_eq] at *
  refine ⟨?_, psm, cs, sud, snd, rcv, pend, dev, ?_⟩
  · rw [out, State.driven_out]
    simp only [List.length_append, List.length_replicate, State.withVal_out]
    omega
  · rw [val, if_neg (Nat.succ_ne_zero n)]
    split <;> rfl

theorem run_succ_of_step {M : Host.Core} {s t : M.State} (h : M.step s = .next t) (n : Nat) :
    M.run (n + 1) s = M.run n t := by
  rw [Host.Core.run, h]

/-- The clock after a tick is in order. -/
theorem ClockInv.at_tick {c : Clock} (h : ClockInv c) : ClockInv { c with elapsed := 0 } :=
  ⟨h.rate, ⟨le_rfl, one_div_pos.2 (Nat.cast_pos.2 h.rate)⟩, fun _ => rfl, h.disposed⟩

theorem ClockInv.disposed_of_running {c : Clock} (h : ClockInv c) (hr : c.running = true) : c.disposed = false :=
  Bool.eq_false_iff.2 fun hd => Bool.noConfusion ((h.disposed hd).symm.trans hr)

/-- The part of an advance that is left when the tick has been taken (R233). -/
def timeLeft (c : Clock) (dt : Rat) : Rat := dt - (1 / (c.rate : Rat) - c.elapsed)

/-- The time left, in periods, is one period less than the phase and the whole advance. -/
theorem timeLeft_mul_rate {c : Clock} (h : ClockInv c) (dt : Rat) :
    (0 + timeLeft c dt) * c.rate = (c.elapsed + dt) * c.rate - 1 := by
  have hrate : (c.rate : Rat) ≠ 0 := Nat.cast_ne_zero.2 h.rate.ne'
  rw [timeLeft]
  field_simp
  ring

theorem timeLeft_nonneg {c : Clock} (h : ClockInv c) {dt : Rat} (hone : 1 ≤ (c.elapsed + dt) * c.rate) :
    0 ≤ timeLeft c dt := by
  have hle := (div_le_iff₀ (Nat.cast_pos.2 h.rate)).2 hone
  rw [timeLeft]
  linarith

/-- The phase after `n` ticks of the time left is the one after `n + 1` ticks of the whole. -/
theorem timeLeft_sub_ticks (c : Clock) (dt : Rat) (n : Nat) :
    0 + timeLeft c dt - n / c.rate = c.elapsed + dt - (n + 1 : Nat) / c.rate := by
  rw [timeLeft, Nat.cast_succ, add_div]
  ring

section
variable {s : State} {dt : Rat}

theorem step_advance (hdt : 0 ≤ dt) (hi : s.inbox = [.vcAdvance dt]) :
    step s = .next (advance dt { s with inbox := [] }) :=
  (step_of_inbox_cons hi).trans (exec_vcAdvance_eq hdt)

variable (hdt : 0 ≤ dt) (hclk : ClockInv s.clk) (hr : s.clk.running = true) (hi : s.inbox = [.vcAdvance dt])
include hdt hclk hr hi

/-- Less time than is left to the tick: the phase takes it all. -/
theorem step_advance_of_before_tick (h : (s.clk.elapsed + dt) * s.clk.rate < 1) :
    step s = .next { s with inbox := [], clk := { s.clk with elapsed := s.clk.elapsed + dt } } := by
  have hlt : s.clk.elapsed + dt < 1 / (s.clk.rate : Rat) := (lt_div_iff₀ (Nat.cast_pos.2 hclk.rate)).2 h
  rw [step_advance hdt hi, advance_of_before_tick (s := { s with inbox := [] }) hr (hclk.disposed_of_running hr) hlt]

/-- The time reaches the tick: the tick is taken, and the rest is the next step. -/
theorem step_advance_of_tick (h : 1 ≤ (s.clk.elapsed + dt) * s.clk.rate) :
    step s = .next { clockTick s with inbox := [.vcAdvance (timeLeft s.clk dt)] } := by
  have hle : 1 / (s.clk.rate : Rat) ≤ s.clk.elapsed + dt := (div_le_iff₀ (Nat.cast_pos.2 hclk.rate)).2 h
  rw [step_advance hdt hi, advance_of_tick (s := { s with inbox := [] }) hr (hclk.disposed_of_running hr) hle,
    clockTick_eq, clockTick_eq]
  rfl

end

/-- By induction on the number of ticks: a step takes one, and the time left after it has one tick less. -/
theorem run_advance (n : Nat) : ∀ {s : State} {dt : Rat}, 0 ≤ dt → ClockInv s.clk → s.clk.running = true →
    s.inbox = [.vcAdvance dt] → ⌊(s.clk.elapsed + dt) * s.clk.rate⌋₊ = n →
    ∃ t, Host.Core.run Sys2Proof.core (n + 1) s = .next t ∧ t.inbox = [] ∧
      t.clk = { s.clk with elapsed := s.clk.elapsed + dt - n / s.clk.rate } ∧ Ticks n s t := by
  induction n with
  | zero =>
    intro s dt hdt hclk hr hi hn
    have hstep := step_advance_of_before_tick hdt hclk hr hi (Nat.floor_eq_zero.1 hn)
    refine ⟨{ s with inbox := [], clk := { s.clk with elapsed := s.clk.elapsed + dt } }, run_succ_of_step hstep 0, rfl, ?_,
      ⟨rfl, rfl, rfl, rfl, rfl, rfl, rfl, rfl, rfl⟩⟩
    rw [Nat.cast_zero, zero_div, sub_zero]
  | succ n ih =>
    intro s dt hdt hclk hr hi hn
    have hone : 1 ≤ (s.clk.elapsed + dt) * s.clk.rate := Nat.floor_pos.1 (hn ▸ Nat.succ_pos n)
    have hstep := step_advance_of_tick hdt hclk hr hi hone
    have htick : (clockTick s).clk = { s.clk with elapsed := 0 } := by
      rw [clockTick_eq]
      rfl
    have hfloor : ⌊(0 + timeLeft s.clk dt) * s.clk.rate⌋₊ = n := by
      rw [timeLeft_mul_rate hclk, Nat.floor_sub_one, hn, Nat.add_sub_cancel]
    generalize hu : { clockTick s with inbox := [.vcAdvance (timeLeft s.clk dt)] } = u at hstep
    have hclk' : u.clk = { s.clk with elapsed := 0 } := hu ▸ htick
    obtain ⟨t, hrun, hempty, hphase, hticks⟩ := ih (timeLeft_nonneg hclk hone) (hclk' ▸ hclk.at_tick)
      (by rw [hclk']; exact hr) (hu ▸ rfl) (by rw [hclk']; exact hfloor)
    refine ⟨t, (run_succ_of_step hstep _).trans hrun, hempty, ?_, .of_clockTick hu.symm hticks⟩
    rw [hphase, hclk']
    dsimp only
    rw [timeLeft_sub_ticks]

/-- Settles O26, by the induction over the ticks. -/
theorem uninterruptedAdvanceFiresFloorTicks : Obligations.UninterruptedAdvanceFiresFloorTicks := by
  intro s dt hdt hclk hr hi
  obtain ⟨t, hrun, hempty, hphase, hticks⟩ := run_advance _ hdt hclk hr hi rfl
  obtain ⟨out, psm, cs, sud, snd, rcv, pend, dev, val⟩ := hticks
  exact ⟨t, hrun, hempty, hphase, out, psm, cs, sud, snd, rcv, pend, dev, val⟩

end Sys2Proof.Machine
